-- ==== Sys2Proof/Word.lean ====
section
/-!
DEFINITION. The words and numbers of the Vezicor S8 (spec/00_scope.md, Table 0-2; spec/12_formats_and_encodings.md).
-/

namespace Sys2Proof

/-- A byte of the line, of the settings store and of the service port. -/
abbrev Byte := BitVec 8

/-- A 16-bit word: a check, a digest, a record word, a diagnostic counter. -/
abbrev Half := BitVec 16

/-- A station number, 0 to 31 (00, "The Station in a Plant"). -/
abbrev StationNo := Fin 32

/-- A point id, 0 to 287: 0 to 255 field points, 256 to 287 loss points (R1). -/
abbrev PointId := Fin 288

/-- An alarm group, 0 to 7. -/
abbrev Group := Fin 8

/-- An input number, 0 to 7: the local point of R134. -/
abbrev LocalPoint := Fin 8

/-- A lamp number, 0 to 7. -/
abbrev Lamp := Fin 8

/-- A set of groups, bit `g` for group `g` (Table 12-1). -/
abbrev GroupMask := BitVec 8

/-- A settings cell, 0 to 25 (R162). -/
abbrev CellNo := Fin 26

/-- The point id of a station's field point: station number × 8 + input number (R22, R134). -/
def fieldPoint (s : StationNo) (p : LocalPoint) : PointId := ⟨s.val * 8 + p.val, by omega⟩

/-- The point id of a station's loss point: 256 + station number (R29). -/
def lossPoint (s : StationNo) : PointId := ⟨256 + s.val, by omega⟩

/-- Point ids 256 to 287 are loss points (R1). -/
def isLossPoint (p : PointId) : Bool := 256 ≤ p.val

/-- The mask holds the group. -/
def inMask (m : GroupMask) (g : Group) : Bool := m.getLsbD g.val

end Sys2Proof
end

