-- ==== Sys2Proof/Config.lean ====
section
/-!
DEFINITION. The limits and periods the spec fixes, each under its rule.
The spec leaves no value open that an event needs, so Config declares no free value.
-/

namespace Sys2Proof.Config

/-- The list holds at most 64 records (R4). -/
def listCapacity : Nat := 64

/-- The outbox holds at most 52 entries (R57). -/
def outboxCapacity : Nat := 52

/-- A framed station starts, and follows, from a gap of 11 recessive cells (R65). -/
def framedThreshold : Nat := 11

/-- An unframed station follows from a gap of 12 recessive cells (R65). -/
def unframedFollow : Nat := 12

/-- The gap count stops at 24; there an unframed station becomes framed and may start (R64, R65). -/
def gapLimit : Nat := 24

/-- The line is held at the twelfth dominant cell in a row (R71). -/
def heldLimit : Nat := 12

/-- At 16 strikes the station enters MUTED (R75, R80). -/
def strikeLimit : Nat := 16

/-- The MUTED timer ends at 64 roll intervals (R82). -/
def mutedLimit : Nat := 64

/-- The transfer timer ends at 4 roll intervals (R115). -/
def transferLimit : Nat := 4

/-- LISTEN ends at its third roll-interval boundary (R177). -/
def listenLimit : Nat := 3

/-- A silence counter stops at 8, where a LOSS is offered (R127, R128). -/
def silenceLimit : Nat := 8

/-- The quiet counter stops at 2, where a presence roll is offered (R129). -/
def quietLimit : Nat := 2

/-- A button's debounce count is fixed at 8 (R150). -/
def buttonDebounce : Nat := 8

/-- A LIST page holds at most six records (R185). -/
def pageSize : Nat := 6

/-- Clock periods in one 1 ms base tick (R173). -/
def clocksPerTick : Nat := 4000

/-- Base ticks between two advances of the flash phase (R173). -/
def ticksPerFlash : Nat := 125

/-- Clock periods of a burn (R170). -/
def burnClocks : Nat := 16000

/-- Base ticks of start hold for each station number: 4 ms × (station number + 1) (R176). -/
def holdTicksPerNumber : Nat := 4

/-- The value that fills a selection longer than its response (R195). -/
def fillByte : Byte := 0xFF

end Sys2Proof.Config
end

