-- ==== Sys2Proof/Machine/Data.lean ====
section
/-!
DEFINITION. The things the spec names: records, settings, bulletins, outbox entries, walks, presence entries.
-/

namespace Sys2Proof.Machine

/-- A record's state (Table 2-1). -/
inductive RecordState where
  | alert
  | held
  | lapsed
  | settled
  deriving DecidableEq, Repr

/-- A record of the annunciation list (Table 1-1). -/
structure Record where
  id : PointId
  state : RecordState
  group : Group
  firstOut : Bool
  silenced : Bool
  deriving DecidableEq, Repr

/-- The options of one group (00, Table 0-2). -/
structure GroupOptions where
  lockin : Bool
  ringback : Bool
  autoclear : Bool
  firstout : Bool
  deriving DecidableEq, Repr

/-- The options of the eight groups. -/
abbrev Options := Vector GroupOptions 8

/-- How a point's debounced transitions are published (Table 8-1). -/
inductive PointMode where
  | level
  | pulse
  deriving DecidableEq, Repr

/-- The settings of one point (Table 10-1): the debounce field is stored as count − 1. -/
structure PointSettings where
  group : Group
  mode : PointMode
  activeLow : Bool
  debounce : Fin 8
  deriving DecidableEq, Repr

/-- The debounce count, 1 to 8: the stored setting plus one (Table 8-1). -/
def PointSettings.count (p : PointSettings) : Nat := p.debounce.val + 1

/-- The settings in use (Table 10-1) with the settings digest computed from them at START (R165).
A lamp's nine-bit value is kept as stored; 288 to 511 leave it unmapped (R154). -/
structure Settings where
  number : StationNo
  rate : Fin 4
  interval : Fin 4
  lossGroup : Group
  options : Options
  points : Vector PointSettings 8
  coverage : GroupMask
  windows : Vector (BitVec 9) 8
  digest : Half
  deriving DecidableEq, Repr

/-- The reason a JOIN carries (R42). -/
inductive Reason where
  | start
  | resync
  | unmute
  | lost
  | retry
  deriving DecidableEq, Repr

/-- The fields of a transfer roll's body (Table 3-2). -/
structure Roll where
  target : StationNo
  last : Bool
  overflow : Bool
  predecessor : Option PointId
  record : Option Record
  deriving DecidableEq, Repr

/-- What a bulletin says: its kind and the fields of its body (Tables 3-1, 3-2). -/
inductive Bulletin where
  | raise (point : LocalPoint) (group : Group)
  | loss (named : StationNo)
  | ret (point : LocalPoint) (group : Group)
  | ack (mask : GroupMask)
  | silence (mask : GroupMask)
  | clear (mask : GroupMask)
  | presenceRoll (settingsDigest listDigest : Half) (length : Fin 65)
  | transferRoll (roll : Roll)
  | join (reason : Reason) (settingsDigest : Half)
  deriving DecidableEq, Repr

/-- The content of a frame: bulletin, sender and count byte (R41). -/
structure Frame where
  body : Bulletin
  sender : StationNo
  count : Byte
  deriving DecidableEq, Repr

/-- The frame is a JOIN. -/
def Frame.isJoin (f : Frame) : Bool :=
  match f.body with
  | .join _ _ => true
  | _ => false

/-- What an outbox entry holds: its kind and its subject (R44). -/
inductive Subject where
  | raise (point : LocalPoint)
  | loss (named : StationNo)
  | ret (point : LocalPoint)
  | ack
  | silence
  | clear
  | presenceRoll
  | transferRoll (target : StationNo)
  | join (reason : Reason)
  deriving DecidableEq, Repr

/-- An outbox entry: pending, or in flight (R44). -/
structure Entry where
  subject : Subject
  inFlight : Bool
  deriving DecidableEq, Repr

/-- A transfer walk (R16); the cursor is `none` before the head. -/
structure Walk where
  target : StationNo
  cursor : Option PointId
  deriving DecidableEq, Repr

/-- A presence entry's state (Table 7-2). -/
inductive PeerState where
  | absent
  | joining
  | active
  | silent
  | discord
  deriving DecidableEq, Repr

/-- Why the station is UNCOMMISSIONED (R164). -/
inductive Cause where
  | blank
  | check
  | format
  deriving DecidableEq, Repr

/-- A JOINING phase with the transfer timer where it runs (R100, Table 6-1). -/
inductive Phase where
  | asking
  | admitted (timer : Nat)
  | filling (timer : Nat)
  deriving DecidableEq, Repr

/-- The station state with what is kept only inside it (Table 0-1): the cause (R164), the boundaries counted in
LISTEN (R177), the JOINING phase (R100), the MUTED timer (R80) and the step-lost flag (R91). -/
inductive Station where
  | start
  | uncommissioned (cause : Cause)
  | listen (boundaries : Nat)
  | joining (phase : Phase)
  | active
  | muted (timer : Nat) (stepLost : Bool)
  | discord
  deriving DecidableEq, Repr

/-- The three kinds of reset, which are also the recorded causes (R175). -/
inductive ResetKind where
  | powerOn
  | pin
  | restart
  deriving DecidableEq, Repr

/-- Supply and reset (R175). -/
inductive Power where
  | off
  | inReset (kind : ResetKind)
  | running
  deriving DecidableEq, Repr

/-- A lamp pattern (Table 0-3). -/
inductive Pattern where
  | off
  | steady
  | fast
  | slow
  | wink
  deriving DecidableEq, Repr

/-- A response's status (Table 11-1). -/
inductive Status where
  | ok
  | none
  | busy
  | refused
  | frozen
  | notOpen
  | range
  | unknown
  | truncated
  | burnFailed
  deriving DecidableEq, Repr

/-- Changes the entry of a table at one index. -/
def update {α : Type} {n : Nat} (v : Vector α n) (i : Fin n) (f : α → α) : Vector α n :=
  v.set i.val (f v[i]) i.isLt

end Sys2Proof.Machine
end

