-- ==== Sys2Proof/Syntax.lean ====
section
/-!
DEFINITION. The commands of the block: one constructor for each row of spec/opcode_table.json.
The table gives no operands, so each command carries what its event's own rule reads from outside
(assumption log, entry 8).
-/

namespace Sys2Proof

/-- The level of a line cell: driven by at least one station, or by none (R61). -/
inductive Level where
  | dominant
  | recessive
  deriving DecidableEq, Repr

/-- The three slot cells that end a frame, in line order (R62, R72). -/
inductive Slot where
  | veto
  | agree
  | step
  deriving DecidableEq, Repr

/-- The levels read in the three slot cells (R72). -/
structure Slots where
  veto : Level
  agree : Level
  step : Level
  deriving DecidableEq, Repr

/-- The four operator buttons (R149). -/
inductive Button where
  | ack
  | silence
  | clear
  | test
  deriving DecidableEq, Repr

/-- The commands: the rows of spec/opcode_table.json, in the table's order. -/
inductive Instr where
  /-- POWER_ON (R175): supply is applied. -/
  | powerOn
  /-- SUPPLY_LOST (R172): supply is lost. -/
  | supplyLost
  /-- PIN_RESET (R175): RESET is driven low. -/
  | pinReset
  /-- RESET_END (R175): the cause of the reset in progress goes. -/
  | resetEnd
  /-- START_HOLD_END (R176): the start hold has run out. -/
  | startHoldEnd
  /-- LISTEN_END (R177): the third boundary of LISTEN has fallen. -/
  | listenEnd
  /-- SAMPLE_TICK (R135, R150): the levels at F0 to F7 (bit p for Fp, set for high) and at the buttons
  (bits 0 to 3 for ACK, SILENCE, CLEAR, TEST, set for high). -/
  | sampleTick (fields : BitVec 8) (buttons : BitVec 4)
  /-- DEBOUNCED_TRANSITION (R136) of the point. -/
  | debouncedTransition (p : LocalPoint)
  /-- BUTTON_DEBOUNCED_CHANGE (R150) of the button. -/
  | buttonDebouncedChange (b : Button)
  /-- FLASH_PHASE_ADVANCE (R155). -/
  | flashPhaseAdvance
  /-- ROLL_INTERVAL_BOUNDARY (R174). -/
  | rollIntervalBoundary
  /-- SILENCE_LIMIT (R128) of the peer. -/
  | silenceLimit (n : StationNo)
  /-- QUIET_COUNTER_LIMIT (R129). -/
  | quietCounterLimit
  /-- TRANSFER_TIMEOUT (R116). -/
  | transferTimeout
  /-- MUTED_TIMER_EXPIRY (R82). -/
  | mutedTimerExpiry
  /-- GAP_FRAMED (R64): the recessive cells read have brought the gap count to 24. -/
  | gapFramed
  /-- OWN_START (R65), after so many recessive cells read since the last event of the line. -/
  | ownStart (recessive : Nat)
  /-- ARBITRATION_LOST (R67) in the data cell of the precedence byte, counted from 0. -/
  | arbitrationLost (cell : Fin 8)
  /-- COLLISION (R68) in the cell of the frame, counted from its first lead cell as 0. -/
  | collision (cell : Nat)
  /-- LINE_HELD (R71): the held run reaches 12. -/
  | lineHeld
  /-- LINE_HELD_END (R64): the line goes recessive after a held run. -/
  | lineHeldEnd
  /-- FRAME_CHECKED (R69): the levels read in the byte cells of the frame, from the first lead cell to the
  tail cell of the last check byte. -/
  | frameChecked (cells : List Level)
  /-- OWN_FRAME_OUTCOME (R74), with the slot levels that the other stations leave on the line. -/
  | ownFrameOutcome (slots : Slots)
  /-- RECEIVED_FRAME_OUTCOME (R89), with the slot levels that the other stations leave on the line. -/
  | receivedFrameOutcome (slots : Slots)
  /-- BURN_COMPLETION (R170). -/
  | burnCompletion
  /-- VPP_LOST (R172). -/
  | vppLost
  /-- TRUNCATED_SELECTION (R180), with the code byte of the partial request when one was received. -/
  | truncatedSelection (code : Option Byte)
  /-- UNKNOWN_REQUEST (R178) with its code. -/
  | unknownRequest (code : Byte)
  /-- STATUS (R182). -/
  | status
  /-- ACKNOWLEDGE (R184) with its latch mask. -/
  | acknowledge (mask : Byte)
  /-- LIST (R185) with its two-byte operand. -/
  | list (operand : Half)
  /-- PRESENCE (R186). -/
  | presence
  /-- POINTS (R187). -/
  | points
  /-- COUNTERS (R189). -/
  | counters
  /-- CLEAR_COUNTERS (R189). -/
  | clearCounters
  /-- PRESS (R190) with its button byte. -/
  | press (button : Byte)
  /-- SETTINGS (R191) with its cell byte. -/
  | settings (cell : Byte)
  /-- OPEN (R168), with VPP as sensed at the taking. -/
  | openSession (vpp : Bool)
  /-- STAGE (R169) with its cell and value bytes. -/
  | stage (cell value : Byte)
  /-- BURN (R170), with VPP as sensed at the taking. -/
  | burn (vpp : Bool)
  /-- CLOSE (R171). -/
  | close
  /-- RESTART (R192). -/
  | restart
  /-- ANOTHERS_START (R65), after so many recessive cells read since the last event of the line. -/
  | anothersStart (recessive : Nat)
  /-- DOMINANT_CELL_NOT_A_START (R64), after so many recessive cells read since the last event of the line. -/
  | dominantCellNotAStart (recessive : Nat)
  /-- SEL_FALLING_EDGE (R178). -/
  | selFallingEdge
  deriving DecidableEq, Repr

end Sys2Proof
end

