-- ==== Sys2Proof/Machine/Formats.lean ====
section
/-!
DEFINITION. Formats and encodings (spec/12_formats_and_encodings.md): the check, the record word, bodies, frames,
line cells and the settings store.
-/

namespace Sys2Proof.Machine

/-- A flag as a number. -/
def bit (b : Bool) : Nat := if b then 1 else 0

/-! The check (R193, R14). -/

/-- One data bit into the check register (R193). -/
def checkBit (c : Half) (d : Bool) : Half :=
  if xor c.msb d then (c <<< 1) ^^^ 0x1021#16 else c <<< 1

/-- The eight bits of a byte, bit 7 first (R193). -/
def byteBits (b : Byte) : List Bool := [7, 6, 5, 4, 3, 2, 1, 0].map b.getLsbD

/-- One byte into the check register (R193). -/
def checkByte (c : Half) (b : Byte) : Half := (byteBits b).foldl checkBit c

/-- The check over a byte sequence (R193). -/
def checkOf (bytes : List Byte) : Half := bytes.foldl checkByte 0xFFFF#16

/-- High byte of a word: multi-byte fields travel high byte first (12, opening words). -/
def highByte (h : Half) : Byte := BitVec.ofNat 8 (h.toNat / 256)

/-- Low byte of a word. -/
def lowByte (h : Half) : Byte := BitVec.ofNat 8 h.toNat

/-- A word as its two bytes, high byte first. -/
def halfBytes (h : Half) : List Byte := [highByte h, lowByte h]

/-- The word of two bytes, high byte first. -/
def halfOf (hi lo : Byte) : Half := BitVec.ofNat 16 (hi.toNat * 256 + lo.toNat)

/-! The record word (Table 12-2). -/

/-- The state field's code (Table 12-2). -/
def RecordState.code : RecordState → Nat
  | .alert => 0
  | .held => 1
  | .lapsed => 2
  | .settled => 3

/-- The state of a two-bit code (Table 12-2). -/
def recordStateOf (n : Nat) : RecordState :=
  match n with
  | 0 => .alert
  | 1 => .held
  | 2 => .lapsed
  | _ => .settled

/-- The record word (Table 12-2). -/
def recordWord (r : Record) : Half :=
  BitVec.ofNat 16 (r.id.val * 128 + r.state.code * 32 + r.group.val * 4 + bit r.firstOut * 2 + bit r.silenced)

/-- The record of a record word; none when the point id is above 287 (R43). -/
def recordOf (w : Half) : Option Record :=
  if h : w.toNat / 128 < 288 then
    some
      { id := ⟨w.toNat / 128, h⟩
        state := recordStateOf (w.toNat / 32 % 4)
        group := ⟨w.toNat / 4 % 8, Nat.mod_lt _ (by decide)⟩
        firstOut := w.toNat / 2 % 2 == 1
        silenced := w.toNat % 2 == 1 }
  else none

/-- The list digest's byte sequence: each record word from head to tail, high byte first (R14, R193). -/
def digestBytes (rs : List Record) : List Byte := rs.flatMap fun r => halfBytes (recordWord r)

/-- The digest of a list (R14). -/
def listDigestOf (rs : List Record) : Half := checkOf (digestBytes rs)

/-! Bodies (Table 12-1). -/

/-- The precedence code of a bulletin (Table 3-1). -/
def Bulletin.code : Bulletin → Nat
  | .raise _ _ => 0
  | .loss _ => 1
  | .ret _ _ => 2
  | .ack _ => 3
  | .silence _ => 4
  | .clear _ => 5
  | .presenceRoll _ _ _ => 6
  | .transferRoll _ => 6
  | .join _ _ => 7

/-- The body length that a kind's code fixes (Table 3-1). -/
def bodyLength (code : Nat) : Nat := if code = 6 then 6 else if code = 7 then 3 else 1

/-- The number of bytes of a frame of a kind: precedence, count, body and two check bytes (R62). -/
def frameLength (code : Nat) : Nat := bodyLength code + 4

/-- The reason byte of a JOIN (Table 12-1). -/
def Reason.code : Reason → Nat
  | .start => 0
  | .resync => 1
  | .unmute => 2
  | .lost => 3
  | .retry => 4

/-- The reason of a reason byte; none when undefined (R43). -/
def reasonOf (n : Nat) : Option Reason :=
  match n with
  | 0 => some .start
  | 1 => some .resync
  | 2 => some .unmute
  | 3 => some .lost
  | 4 => some .retry
  | _ => none

/-- The flags byte of a transfer roll (Table 12-1, byte 2). -/
def rollFlags (r : Roll) : Byte :=
  BitVec.ofNat 8
    (bit r.last * 128 + bit r.overflow * 64 + bit r.predecessor.isSome * 32 + bit r.record.isSome * 16
      + (match r.predecessor with | some p => p.val / 256 | none => 0))

/-- The body bytes of a bulletin (Table 12-1). -/
def bodyBytes : Bulletin → List Byte
  | .raise p g => [BitVec.ofNat 8 (g.val * 8 + p.val)]
  | .ret p g => [BitVec.ofNat 8 (g.val * 8 + p.val)]
  | .loss n => [BitVec.ofNat 8 n.val]
  | .ack m => [m]
  | .silence m => [m]
  | .clear m => [m]
  | .join r d => BitVec.ofNat 8 r.code :: halfBytes d
  | .presenceRoll sd ld n => [0] ++ halfBytes sd ++ halfBytes ld ++ [BitVec.ofNat 8 n.val]
  | .transferRoll r =>
    [1, BitVec.ofNat 8 r.target.val, rollFlags r,
      BitVec.ofNat 8 (match r.predecessor with | some p => p.val | none => 0)]
      ++ halfBytes (match r.record with | some x => recordWord x | none => 0)

/-- A point in RAISE or RETURN bodies, and its group; none when a must-be-zero bit is set (R43). -/
def pointBody (b : Byte) : Option (LocalPoint × Group) :=
  if b.toNat < 64 then
    some (⟨b.toNat % 8, Nat.mod_lt _ (by decide)⟩, ⟨b.toNat / 8 % 8, Nat.mod_lt _ (by decide)⟩)
  else none

/-- A station number in bits 4 to 0 with bits 7 to 5 must-be-zero (R43). -/
def stationBody (b : Byte) : Option StationNo := if h : b.toNat < 32 then some ⟨b.toNat, h⟩ else none

/-- The predecessor of a transfer roll: its flag, then its nine bits, which are must-be-zero when it is absent
(R43). The outer `none` is a format error. -/
def predecessorOf (flags low : Byte) : Option (Option PointId) :=
  let id := flags.toNat % 2 * 256 + low.toNat
  if flags.getLsbD 5 then (if h : id < 288 then some (some ⟨id, h⟩) else none)
  else if id = 0 then some none else none

/-- The record of a transfer roll: its flag, then the record word, which is must-be-zero when it is absent
(R43). The outer `none` is a format error. -/
def rollRecordOf (flags : Byte) (word : Half) : Option (Option Record) :=
  if flags.getLsbD 4 then (recordOf word).map some
  else if word = 0 then some none else none

/-- A transfer roll's body after its sub-kind; none on a format error: bits 3 to 1 of the flags are must-be-zero,
and a roll without a record must be marked last (R43). -/
def rollBody (t flags low hi lo : Byte) : Option Roll :=
  match stationBody t, predecessorOf flags low, rollRecordOf flags (halfOf hi lo) with
  | some target, some pred, some rec =>
    if flags.toNat / 2 % 8 = 0 ∧ (rec.isSome ∨ flags.getLsbD 7) then
      some
        { target := target, last := flags.getLsbD 7, overflow := flags.getLsbD 6, predecessor := pred,
          record := rec }
    else none
  | _, _, _ => none

/-- The bulletin of a kind's code and body bytes; none on a format error (R43, Table 12-1). -/
def bodyOf (code : Nat) (body : List Byte) : Option Bulletin :=
  match code, body with
  | 0, [b] => (pointBody b).map fun (p, g) => .raise p g
  | 1, [b] => (stationBody b).map .loss
  | 2, [b] => (pointBody b).map fun (p, g) => .ret p g
  | 3, [b] => some (.ack b)
  | 4, [b] => some (.silence b)
  | 5, [b] => some (.clear b)
  | 6, [k, b1, b2, b3, b4, b5] =>
    if k = 0 then
      (if h : b5.toNat < 65 then some (.presenceRoll (halfOf b1 b2) (halfOf b3 b4) ⟨b5.toNat, h⟩) else none)
    else if k = 1 then (rollBody b1 b2 b3 b4 b5).map .transferRoll
    else none
  | 7, [r, hi, lo] => (reasonOf r.toNat).map fun reason => .join reason (halfOf hi lo)
  | _, _ => none

/-! Frames (R193). -/

/-- The precedence byte: kind × 32 + sender (R41). -/
def precedenceByte (code : Nat) (sender : StationNo) : Byte := BitVec.ofNat 8 (code * 32 + sender.val)

/-- The bytes that the check covers: precedence byte, count byte and body (R41). -/
def coveredBytes (f : Frame) : List Byte :=
  precedenceByte f.body.code f.sender :: f.count :: bodyBytes f.body

/-- The bytes of a frame in line order (R193). -/
def frameBytes (f : Frame) : List Byte := coveredBytes f ++ halfBytes (checkOf (coveredBytes f))

/-- The sender in a precedence byte (R193). -/
def senderOf (p : Byte) : StationNo := ⟨p.toNat % 32, Nat.mod_lt _ (by decide)⟩

/-- The kind's code in a precedence byte (R193). -/
def kindCodeOf (p : Byte) : Nat := p.toNat / 32

/-- The frame of received bytes; none when the check differs (R69) or the content breaks R43. -/
def frameOf (bytes : List Byte) : Option Frame :=
  match bytes with
  | p :: c :: rest =>
    let n := bodyLength (kindCodeOf p)
    if rest.length = n + 2 ∧ halfBytes (checkOf (p :: c :: rest.take n)) = rest.drop n then
      (bodyOf (kindCodeOf p) (rest.take n)).map fun b => { body := b, sender := senderOf p, count := c }
    else none
  | _ => none

/-! Cells (R61, R62). -/

/-- A bit on the line: 0 dominant, 1 recessive (R61). -/
def levelOf (b : Bool) : Level := if b then .recessive else .dominant

/-- The level as a received bit (R61). -/
def levelBit : Level → Bool
  | .dominant => false
  | .recessive => true

/-- The ten cells of a byte: dominant lead cell, eight data cells, recessive tail cell (R61). -/
def byteCells (b : Byte) : List Level := .dominant :: ((byteBits b).map levelOf ++ [.recessive])

/-- The byte cells of a frame, without the slots (R62). -/
def frameCells (f : Frame) : List Level := (frameBytes f).flatMap byteCells

/-- The level read in a cell; a cell that nothing was said about is undriven and reads recessive (R72). -/
def cellAt (cells : List Level) (i : Nat) : Level := cells.getD i .recessive

/-- The value of eight bits, the first the most significant. -/
def bitsValue (bits : List Bool) : Nat := bits.foldl (fun n b => 2 * n + bit b) 0

/-- Byte `k` of the cells read, most significant bit first (R61). -/
def byteAt (cells : List Level) (k : Nat) : Byte :=
  BitVec.ofNat 8 (bitsValue ([1, 2, 3, 4, 5, 6, 7, 8].map fun i => levelBit (cellAt cells (10 * k + i))))

/-- Byte `k` has a dominant lead cell and a recessive tail cell (R69). -/
def byteFramed (cells : List Level) (k : Nat) : Bool :=
  cellAt cells (10 * k) = .dominant && cellAt cells (10 * k + 9) = .recessive

/-- The number of bytes of the frame being read, from its precedence byte (R62). -/
def bytesRead (cells : List Level) : Nat := frameLength (kindCodeOf (byteAt cells 0))

/-- The receiver's check of a whole frame: the line rules of R69 and the content rules of R43. `none` is a
format error. -/
def readFrame (cells : List Level) : Option Frame :=
  if (List.range (bytesRead cells)).all (byteFramed cells) then
    frameOf ((List.range (bytesRead cells)).map (byteAt cells))
  else none

/-- The held run after one more cell, stopping at 12 (R71). -/
def runCell (run : Nat) (l : Level) : Nat :=
  match l with
  | .dominant => min Config.heldLimit (run + 1)
  | .recessive => 0

/-- The held run after some cells (R71). -/
def runAfter (run : Nat) (cells : List Level) : Nat := cells.foldl runCell run

/-- The held run reaches 12 somewhere in the cells (R71). -/
def runReaches (run : Nat) : List Level → Bool
  | [] => false
  | c :: rest => runCell run c = Config.heldLimit || runReaches (runCell run c) rest

/-! The settings store (Table 12-3). -/

/-- The point settings of a point cell (Table 12-3). -/
def pointSettingsOf (b : Byte) : PointSettings :=
  { group := ⟨b.toNat % 8, Nat.mod_lt _ (by decide)⟩
    mode := if b.getLsbD 3 then .pulse else .level
    activeLow := b.getLsbD 4
    debounce := ⟨b.toNat / 32 % 8, Nat.mod_lt _ (by decide)⟩ }

/-- A point's settings as a byte in the layout of cells 2 to 9 (Table 12-3, Table 12-5). -/
def pointSettingsByte (p : PointSettings) : Byte :=
  BitVec.ofNat 8
    (p.debounce.val * 32 + bit p.activeLow * 16 + bit (decide (p.mode = .pulse)) * 8 + p.group.val)

/-- The options of one group in a half cell (Table 12-3). -/
def groupOptionsOf (n : Nat) : GroupOptions :=
  { lockin := n.testBit 0, ringback := n.testBit 1, autoclear := n.testBit 2, firstout := n.testBit 3 }

/-- The options of group `g`: cell 10 + g / 2, low half for an even group (Table 12-3). -/
def optionsAt (cells : Vector Byte 26) (g : Group) : GroupOptions :=
  groupOptionsOf ((cells[10 + g.val / 2]'(by omega)).toNat / (if g.val % 2 = 0 then 1 else 16) % 16)

/-- The bytes of the settings digest: rate, interval, loss group, and cells 10 to 13 (R193). -/
def settingsDigestBytes (cells : Vector Byte 26) : List Byte :=
  [BitVec.ofNat 8 (cells[0].toNat / 32 % 4), BitVec.ofNat 8 (cells[1].toNat % 4),
    BitVec.ofNat 8 (cells[1].toNat / 4 % 8), cells[10], cells[11], cells[12], cells[13]]

/-- The settings of a store (Tables 10-1, 12-3), with their digest (R165). -/
def settingsOf (cells : Vector Byte 26) : Settings :=
  { number := ⟨cells[0].toNat % 32, Nat.mod_lt _ (by decide)⟩
    rate := ⟨cells[0].toNat / 32 % 4, Nat.mod_lt _ (by decide)⟩
    interval := ⟨cells[1].toNat % 4, Nat.mod_lt _ (by decide)⟩
    lossGroup := ⟨cells[1].toNat / 4 % 8, Nat.mod_lt _ (by decide)⟩
    options := Vector.ofFn (optionsAt cells)
    points := Vector.ofFn fun p : Fin 8 => pointSettingsOf (cells[2 + p.val]'(by omega))
    coverage := cells[14]
    windows :=
      Vector.ofFn fun n : Fin 8 =>
        BitVec.ofNat 9 ((cells[15 + n.val]'(by omega)).toNat + bit (cells[23].getLsbD n.val) * 256)
    digest := checkOf (settingsDigestBytes cells) }

/-- The commissioned bit (Table 12-3). -/
def isCommissioned (cells : Vector Byte 26) : Bool := cells[25].getLsbD 0

/-- The exclusive OR of the twenty-four setting cells (R164). -/
def storeCheck (cells : Vector Byte 26) : Byte := (cells.toList.take 24).foldl (· ^^^ ·) 0

/-- A must-be-zero bit is set: the format test looks at cells 0, 1 and 25 (R194). -/
def hasStrayBit (cells : Vector Byte 26) : Bool :=
  cells[0].getLsbD 7 || decide (32 ≤ cells[1].toNat) || decide (2 ≤ cells[25].toNat)

/-- The judgement of the store at START (R164): the first test that fails decides; none when all pass. -/
def storeVerdict (cells : Vector Byte 26) : Option Cause :=
  if !isCommissioned cells then some .blank
  else if storeCheck cells ≠ cells[24] then some .check
  else if hasStrayBit cells then some .format
  else none

/-- The settings of an all-zero store: what is read where no settings are in use (R187). -/
def Settings.blank : Settings := settingsOf (Vector.replicate 26 0)

/-- Clock periods per cell at a rate code (Table 4-1). -/
def Settings.clocksPerCell (c : Settings) : Nat :=
  match c.rate with
  | 0 => 320
  | 1 => 160
  | 2 => 80
  | 3 => 40

/-- Base ticks of a roll interval (R163, R174). -/
def Settings.rollTicks (c : Settings) : Nat :=
  match c.interval with
  | 0 => 100
  | 1 => 250
  | 2 => 500
  | 3 => 1000

/-- The options of a group in use. -/
def Settings.optionsOf (c : Settings) (g : Group) : GroupOptions := c.options[g]

/-! Service port codes (Tables 12-4, 12-5). -/

/-- The operand bytes of a defined request code; none for an undefined code (Table 12-4). -/
def requestOperands (code : Byte) : Option Nat :=
  match code.toNat with
  | 0x01 => some 0
  | 0x02 => some 1
  | 0x03 => some 2
  | 0x04 => some 0
  | 0x05 => some 0
  | 0x06 => some 0
  | 0x07 => some 0
  | 0x08 => some 1
  | 0x09 => some 1
  | 0x10 => some 0
  | 0x11 => some 2
  | 0x12 => some 0
  | 0x13 => some 0
  | 0x1F => some 0
  | _ => none

/-- The status byte (R195). -/
def Status.byte : Status → Byte
  | .ok => 0
  | .none => 1
  | .busy => 2
  | .refused => 3
  | .frozen => 4
  | .notOpen => 5
  | .range => 6
  | .unknown => 7
  | .truncated => 8
  | .burnFailed => 9

end Sys2Proof.Machine
end

