-- ==== Sys2Proof/WellFormed.lean ====
section
/-!
DEFINITION. Which commands can be: the operands an event's row can carry. Every operand whose whole range is legal
is held in a type of that range, so only four rows need a check.
-/

namespace Sys2Proof

/-- The operands are ones the row's event can have.
COLLISION falls in a byte cell of a frame (R68; at most 10 bytes of ten cells, Table 4-2).
FRAME_CHECKED carries all the byte cells of its frame (R62). A truncated selection has received no byte, or a code
that still waits for operands (R180). An unknown request has an undefined code (R178). -/
def Instr.wellFormed : Instr → Bool
  | .collision cell => cell < 100
  | .frameChecked cells => cells.length == 10 * Machine.bytesRead cells
  | .truncatedSelection none => true
  | .truncatedSelection (some code) =>
    match Machine.requestOperands code with
    | some n => decide (0 < n)
    | none => false
  | .unknownRequest code => (Machine.requestOperands code).isNone
  | _ => true

end Sys2Proof
end

