-- ==== Sys2Proof/Decode.lean ====
section
/-!
DEFINITION. Reading commands from outside: the table's words (spec/opcode_table.json gives no row any bits), and
the bytes of one selection of the service port (Table 12-4).
-/

namespace Sys2Proof

/-- The command that a word of the table spells: none, because the table gives no row any bits. -/
def decodeTableWord (_nbits _w : Nat) : Option Instr := none

/-- The command that a selection's received bytes spell, with VPP as sensed at the end of the selection (R178,
R180, Table 12-4). Bytes after a complete request are ignored; an undefined code is complete at its code byte. -/
def selectionCommand (vpp : Bool) (bytes : List Byte) : Instr :=
  match bytes with
  | [] => .truncatedSelection none
  | code :: rest =>
    match code.toNat, rest with
    | 0x01, _ => .status
    | 0x02, mask :: _ => .acknowledge mask
    | 0x03, hi :: lo :: _ => .list (Machine.halfOf hi lo)
    | 0x04, _ => .presence
    | 0x05, _ => .points
    | 0x06, _ => .counters
    | 0x07, _ => .clearCounters
    | 0x08, button :: _ => .press button
    | 0x09, cell :: _ => .settings cell
    | 0x10, _ => .openSession vpp
    | 0x11, cell :: value :: _ => .stage cell value
    | 0x12, _ => .burn vpp
    | 0x13, _ => .close
    | 0x1F, _ => .restart
    | _, _ =>
      match Machine.requestOperands code with
      | some _ => .truncatedSelection (some code)
      | none => .unknownRequest code

/-- The bytes that a selection's SDI bits make, each bit taken at a rising edge of SCK: eight bits make a byte, most
significant bit first, and the bits of a byte left unfinished are ignored (R178). -/
def bytesOfBits : List Bool → List Byte
  | b7 :: b6 :: b5 :: b4 :: b3 :: b2 :: b1 :: b0 :: rest =>
    BitVec.ofNat 8 (Machine.bitsValue [b7, b6, b5, b4, b3, b2, b1, b0]) :: bytesOfBits rest
  | _ => []

/-- The command that a selection's SDI bits spell at the rising edge of SEL (R178). -/
def selectionOfBits (vpp : Bool) (bits : List Bool) : Instr := selectionCommand vpp (bytesOfBits bits)

end Sys2Proof
end

