-- ==== Sys2Proof/Machine/AnnList.lean ====
section
/-!
DEFINITION. The annunciation list as a structure and the alarm sequence on it (spec/01, spec/02): what an accepted
bulletin makes of the records, what a transfer roll does, and what follows for a walk's cursor.
-/

namespace Sys2Proof.Machine

/-- The record of a point, if the list holds one (R4). -/
def findRecord (rs : List Record) (p : PointId) : Option Record := rs.find? fun r => r.id == p

/-- The list holds a record for the point. -/
def holds (rs : List Record) (p : PointId) : Bool := rs.any fun r => r.id == p

/-- The group is occupied (R11). -/
def occupied (rs : List Record) (g : Group) : Bool := rs.any fun r => r.group == g

/-! The alarm sequence (spec/02). -/

/-- What an accepted RAISE or LOSS came to, for the report of R24 and the refusal of R6. `ignored` is an addition or
refusal that a filling joiner does not apply (Table 2-8). -/
inductive RaiseResult where
  | notRaise
  | published
  | refused
  | ignored
  deriving DecidableEq, Repr

/-- The record as it is added (R6). -/
def newRecord (options : Group → GroupOptions) (p : PointId) (g : Group) (rs : List Record) : Record :=
  { id := p, state := .alert, group := g, firstOut := (options g).firstout && !occupied rs g, silenced := false }

/-- Re-alarm of a LAPSED or SETTLED record, in place; ALERT and HELD stay (Tables 2-3, 2-7). -/
def reAlarm (r : Record) : Record :=
  match r.state with
  | .alert => r
  | .held => r
  | .lapsed => { r with state := .alert, silenced := false }
  | .settled => { r with state := .alert, silenced := false }

/-- An accepted RAISE, or LOSS, for a point (Tables 2-3, 2-7, 2-8). -/
def raiseRecords (options : Group → GroupOptions) (filling : Bool) (p : PointId) (g : Group) (rs : List Record) :
    RaiseResult × List Record :=
  if holds rs p then (.published, rs.map fun r => if r.id = p then reAlarm r else r)
  else if filling then (.ignored, rs)
  else if rs.length < Config.listCapacity then (.published, rs ++ [newRecord options p g rs])
  else (.refused, rs)

/-- What a RETURN, or the JOIN of a lost station, makes of its record; none is removal (Table 2-4, R30). -/
def returnRecord (o : GroupOptions) (r : Record) : Option Record :=
  match r.state with
  | .alert => if o.lockin then some { r with state := .lapsed } else none
  | .held => if o.autoclear then none else some { r with state := .settled, silenced := false }
  | .lapsed => some r
  | .settled => some r

/-- What an ACK makes of a selected record (Table 2-6). -/
def ackRecord (o : GroupOptions) (r : Record) : Option Record :=
  match r.state with
  | .alert => some { r with state := .held }
  | .held => some r
  | .lapsed => if o.autoclear then none else some { r with state := .settled, silenced := false }
  | .settled => some r

/-- What a SILENCE makes of a selected record (R27). -/
def silenceRecord (r : Record) : Record :=
  match r.state with
  | .alert => { r with silenced := true }
  | .held => r
  | .lapsed => { r with silenced := true }
  | .settled => { r with silenced := true }

/-- What a CLEAR makes of a selected record (R28). -/
def clearRecord (r : Record) : Option Record :=
  match r.state with
  | .alert => some r
  | .held => some r
  | .lapsed => some r
  | .settled => none

/-- An accepted RETURN, or JOIN, for a point: the record's own group decides (R19, R25, R30). -/
def returnRecords (options : Group → GroupOptions) (p : PointId) (rs : List Record) : List Record :=
  rs.filterMap fun r => if r.id = p then returnRecord (options r.group) r else some r

/-- A group action on every record whose group is in the mask, each judged as it stood before (R19). -/
def actOnGroups (mask : GroupMask) (f : Record → Option Record) (rs : List Record) : List Record :=
  rs.filterMap fun r => if inMask mask r.group then f r else some r

/-- The alarm sequence: what an accepted bulletin makes of the records (R19 to R32). A ROLL changes none (R31). -/
def alarmSequence (options : Group → GroupOptions) (lossGroup : Group) (filling : Bool) (f : Frame)
    (rs : List Record) : RaiseResult × List Record :=
  match f.body with
  | .raise p g => raiseRecords options filling (fieldPoint f.sender p) g rs
  | .loss n => raiseRecords options filling (lossPoint n) lossGroup rs
  | .ret p _ => (.notRaise, returnRecords options (fieldPoint f.sender p) rs)
  | .ack mask => (.notRaise, actOnGroups mask (fun r => ackRecord (options r.group) r) rs)
  | .silence mask => (.notRaise, actOnGroups mask (fun r => some (silenceRecord r)) rs)
  | .clear mask => (.notRaise, actOnGroups mask clearRecord rs)
  | .presenceRoll _ _ _ => (.notRaise, rs)
  | .transferRoll _ => (.notRaise, rs)
  | .join _ _ => (.notRaise, returnRecords options (lossPoint f.sender) rs)

/-- The bulletin removed at least one record: the acceptance is a removal acceptance (R8). -/
def removes (before after : List Record) : Bool := after.length < before.length

/-- The overflow indication after an accepted bulletin (Table 1-4). -/
def overflowAfter (result : RaiseResult) (removed overflow : Bool) : Bool :=
  if result = .refused then true else if removed then false else overflow

/-! Walks (R16, R17). -/

/-- The next record of a walk: the head, or the successor of the cursor record (R16). -/
def nextRecord (rs : List Record) (cursor : Option PointId) : Option Record :=
  match cursor with
  | none => rs.head?
  | some c => ((rs.dropWhile fun r => r.id != c).drop 1).head?

/-- The cursor after a bulletin: where its record went, it moves back to the nearest earlier record that is still
held, or to before the head (R17). -/
def repairCursor (before after : List Record) (cursor : Option PointId) : Option PointId :=
  match cursor with
  | none => none
  | some c =>
    if holds after c then some c
    else (((before.takeWhile fun r => r.id != c).reverse).find? fun r => holds after r.id).map Record.id

/-- Every walk's cursor after a removal acceptance (R8, R17). -/
def repairWalks (before after : List Record) (ws : List Walk) : List Walk :=
  ws.map fun w => { w with cursor := repairCursor before after w.cursor }

/-- The transfer roll of a walk at its start cell (Table 6-4, R108). -/
def rollOf (target : StationNo) (overflow : Bool) (rs : List Record) (cursor : Option PointId) : Roll :=
  let next := nextRecord rs cursor
  { target := target
    last :=
      match next with
      | none => true
      | some r => (nextRecord rs (some r.id)).isNone
    overflow := overflow
    predecessor := cursor
    record := next }

/-! Taking a transfer roll (R9). -/

/-- Inserts a record immediately after the record of a point. -/
def insertAfter (p : PointId) (x : Record) : List Record → List Record
  | [] => []
  | r :: rest => if r.id = p then r :: x :: rest else r :: insertAfter p x rest

/-- The list after the record of a transfer roll (Table 1-3); none is a transfer error. -/
def takeRecord (rs : List Record) (predecessor : Option PointId) (record : Option Record) : Option (List Record) :=
  match record with
  | none => some rs
  | some x =>
    if holds rs x.id then some (rs.map fun r => if r.id = x.id then x else r)
    else if rs.length < Config.listCapacity then
      match predecessor with
      | none => some (x :: rs)
      | some p => if holds rs p then some (insertAfter p x rs) else none
    else none

end Sys2Proof.Machine
end

