-- ==== Sys2Proof/Machine/State.lean ====
section
/-!
DEFINITION. The state of the station, block by block (spec/00_scope.md, "Block Overview"), and the state right
after reset. INVENTORY.md lists each field with its rule and its reset value.
-/

namespace Sys2Proof.Machine

/-- What stops the machine: nothing does. No rule of the spec gives a stop, so there is no constructor. -/
inductive Fault where
  deriving DecidableEq, Repr

/-- What the model refuses. -/
inductive Refusal where
  /-- Raised by `exec` alone, for a command that has no meaning yet; safe, because the model stops. -/
  | notModelled (mnemonic : String)
  deriving DecidableEq, Repr

/-- List unit (R1, R13, R16): records from head to tail. -/
structure AnnList where
  records : List Record
  overflow : Bool
  walks : List Walk
  deriving DecidableEq, Repr

/-- Outbox (R44): entries oldest first, and the owed-pair flag of each field point (R50). -/
structure Outbox where
  entries : List Entry
  owed : Vector Bool 8
  deriving DecidableEq, Repr

/-- The station's role in the frame it follows (R63); `collided` is a transmitter that met a collision (R68). -/
inductive Role where
  | receiver
  | transmitter (sent : Frame)
  | collided (sent : Frame)
  deriving DecidableEq, Repr

/-- What the check at the end of the last check byte found (R69, R70). -/
inductive Heard where
  | unchecked
  | formatError
  | wellFormed (frame : Frame)
  deriving DecidableEq, Repr

/-- The frame being followed: the cell it stands in, counted from the first lead cell (R63), the station's role,
what the check found, and the slot the station drives (R72). -/
structure InFrame where
  cell : Nat
  role : Role
  heard : Heard
  drive : Option Slot
  deriving DecidableEq, Repr

/-- Line interface (R63); the MUTED timer stands in `Station.muted`. -/
structure Line where
  gap : Nat
  held : Nat
  framed : Bool
  frame : Option InFrame
  strikes : Nat
  cellClock : Nat
  deriving DecidableEq, Repr

/-- A presence entry (R122). `due` is the model's own: at the last boundary the counter stood at its limit. -/
structure Peer where
  state : PeerState
  silence : Nat
  due : Bool
  deriving DecidableEq, Repr

/-- Presence unit (R122, R129). `quietDue` is the model's own: at the last boundary the quiet counter stood at 2.
The entry of the station's own number is never read or written (R122). -/
structure Presence where
  peers : Vector Peer 32
  quiet : Nat
  quietDue : Bool
  deriving DecidableEq, Repr

/-- Running state of a local point (Table 8-1). `due` is the model's own: the run has reached the debounce count. -/
structure Point where
  run : Nat
  abnormal : Bool
  caught : Bool
  waiting : Bool
  due : Bool
  deriving DecidableEq, Repr

/-- A button entry (R149). `due` is the model's own, as for a point. -/
structure ButtonEntry where
  run : Nat
  pressed : Bool
  due : Bool
  deriving DecidableEq, Repr

/-- The four button entries (R149). -/
structure Buttons where
  ack : ButtonEntry
  silence : ButtonEntry
  clear : ButtonEntry
  test : ButtonEntry
  deriving DecidableEq, Repr

/-- The programming session's phase (R167). -/
inductive SessionPhase where
  | closed
  | opened
  | burning
  deriving DecidableEq, Repr

/-- The result of the last burn (R167). -/
inductive BurnResult where
  | none
  | done
  | failed
  deriving DecidableEq, Repr

/-- The programming session (R167). -/
structure Session where
  phase : SessionPhase
  staged : Option (CellNo × Byte)
  lastBurn : BurnResult
  deriving DecidableEq, Repr

/-- The timebase (R173, R174) and the counts of the start hold (R176) and of a running burn (R170). -/
structure Timebase where
  clock : Nat
  sampleNext : Bool
  flashTicks : Nat
  flashPhase : Fin 8
  rollTicks : Nat
  holdTicks : Nat
  burnClocks : Nat
  deriving DecidableEq, Repr

/-- A selection of the service port (R178): none under way, under way and served, or under way and not served
because its falling edge came before the end of a reset (R179). -/
inductive Selection where
  | idle
  | served
  | unserved
  deriving DecidableEq, Repr

/-- The notify latches (R183). -/
structure Latches where
  listChanged : Bool
  presenceChanged : Bool
  stateChanged : Bool
  fault : Bool
  deriving DecidableEq, Repr

/-- The diagnostic counters, in the order of Table 11-4. -/
structure Counters where
  goodFrames : Half
  vetosDriven : Half
  ownVoided : Half
  resyncs : Half
  mutes : Half
  lineHeld : Half
  overflowRefusals : Half
  deriving DecidableEq, Repr

/-- Service port (R178, R179, R183, R188, R175). -/
structure Port where
  slot : List Byte
  shifted : List Byte
  selection : Selection
  latches : Latches
  counters : Counters
  cause : ResetKind
  deriving DecidableEq, Repr

/-- The input pins as last sensed (00, Table 0-4): field inputs, buttons and VPP. -/
structure Pins where
  fields : BitVec 8
  buttons : BitVec 4
  vpp : Bool
  deriving DecidableEq, Repr

/-- The whole state. `pending` is the model's queue of waiting commands, first in, first out. -/
structure State where
  power : Power
  station : Station
  lineCount : Byte
  annList : AnnList
  outbox : Outbox
  line : Line
  presence : Presence
  points : Vector Point 8
  buttons : Buttons
  settings : Option Settings
  store : Vector Byte 26
  session : Session
  timebase : Timebase
  port : Port
  pins : Pins
  pending : List Instr
  deriving DecidableEq, Repr

/-- The list unit after any reset (Table 1-5). -/
def AnnList.reset : AnnList := { records := [], overflow := false, walks := [] }

/-- The outbox after any reset (R44). -/
def Outbox.reset : Outbox := { entries := [], owed := Vector.replicate 8 false }

/-- The line interface after any reset (R63). -/
def Line.reset : Line :=
  { gap := 0, held := 0, framed := false, frame := none, strikes := 0, cellClock := 0 }

/-- A presence entry after any reset (R122). -/
def Peer.reset : Peer := { state := .absent, silence := 0, due := false }

/-- The presence unit after any reset (R122). -/
def Presence.reset : Presence := { peers := Vector.replicate 32 Peer.reset, quiet := 0, quietDue := false }

/-- A local point after any reset (R134). -/
def Point.reset : Point := { run := 0, abnormal := false, caught := false, waiting := false, due := false }

/-- A button entry after any reset (R149). -/
def ButtonEntry.reset : ButtonEntry := { run := 0, pressed := false, due := false }

/-- The buttons after any reset (R161). -/
def Buttons.reset : Buttons :=
  { ack := ButtonEntry.reset, silence := ButtonEntry.reset, clear := ButtonEntry.reset, test := ButtonEntry.reset }

/-- The programming session after any reset (R167). -/
def Session.reset : Session := { phase := .closed, staged := none, lastBurn := .none }

/-- The timebase after any reset (R173). -/
def Timebase.reset : Timebase :=
  { clock := 0, sampleNext := false, flashTicks := 0, flashPhase := 0, rollTicks := 0, holdTicks := 0,
    burnClocks := 0 }

/-- All latches clear. -/
def Latches.clear : Latches := { listChanged := false, presenceChanged := false, stateChanged := false, fault := false }

/-- The latches after any reset: STATE_CHANGED set, the others clear (R183). -/
def Latches.reset : Latches := { Latches.clear with stateChanged := true }

/-- The diagnostic counters after a power-on reset (R188). -/
def Counters.zero : Counters :=
  { goodFrames := 0, vetosDriven := 0, ownVoided := 0, resyncs := 0, mutes := 0, lineHeld := 0,
    overflowRefusals := 0 }

/-- The NONE response, with no request code (R179, R195). -/
def noneResponse : List Byte := [1, 0]

/-- The input pins with nothing connected: pull-ups hold field inputs and buttons high; VPP is absent. -/
def Pins.unconnected : Pins := { fields := 0xFF, buttons := 0xF, vpp := false }

/-- The part as delivered, right after its power-on reset: every block at its reset values (R175, Table 10-2), the
store all zeros (R162), and so, by the reading at START (R164), UNCOMMISSIONED with cause BLANK. -/
def State.reset : State :=
  { power := .running
    station := .uncommissioned .blank
    lineCount := 0
    annList := AnnList.reset
    outbox := Outbox.reset
    line := Line.reset
    presence := Presence.reset
    points := Vector.replicate 8 Point.reset
    buttons := Buttons.reset
    settings := none
    store := Vector.replicate 26 0
    session := Session.reset
    timebase := Timebase.reset
    port :=
      { slot := noneResponse, shifted := [], selection := .idle, latches := Latches.reset,
        counters := Counters.zero, cause := .powerOn }
    pins := Pins.unconnected
    pending := [] }

end Sys2Proof.Machine
end

