-- ==== Sys2Proof/Machine/Flags.lean ====
section
/-!
DEFINITION. The flags the station shows: the FAULT condition (R159), the notify latches (R183) and the diagnostic
counters (R188).
-/

namespace Sys2Proof.Machine

/-- Supply is present and no reset lasts. -/
def State.running (s : State) : Bool := decide (s.power = .running)

/-- The settings in use; with none in use, the reading of all-zero cells (R163, R187). -/
def State.inUse (s : State) : Settings := s.settings.getD Settings.blank

/-- The station's own number (R163). -/
def State.own (s : State) : StationNo := s.inUse.number

/-- The options of a group in use (R19). -/
def State.options (s : State) (g : Group) : GroupOptions := s.inUse.optionsOf g

/-- The station is ACTIVE. -/
def State.isActive (s : State) : Bool := decide (s.station = .active)

/-- The states in which the station follows the line, samples its inputs and counts boundaries: LISTEN, JOINING,
ACTIVE, MUTED and DISCORD (R63, R134, R149, R174). -/
def Station.inService : Station → Bool
  | .start => false
  | .uncommissioned _ => false
  | .listen _ => true
  | .joining _ => true
  | .active => true
  | .muted _ _ => true
  | .discord => true

/-- The station is powered, out of reset, and in a state that follows the line (R63). -/
def State.inService (s : State) : Bool := s.running && s.station.inService

/-- A local point is WAITING (R159). -/
def State.anyWaiting (s : State) : Bool := s.points.toList.any Point.waiting

/-- The list holds a loss record (R38). -/
def State.hasLossRecord (s : State) : Bool := s.annList.records.any fun r => isLossPoint r.id

/-- FAULT's four conditions (R38, R159): off only while the station is ACTIVE, the overflow indication is clear, no
loss record is in the list and no local point is WAITING. -/
def State.faultOn (s : State) : Bool :=
  !(s.isActive && !s.annList.overflow && !s.hasLossRecord && !s.anyWaiting)

/-- Some notify latch is set. -/
def Latches.any (l : Latches) : Bool := l.listChanged || l.presenceChanged || l.stateChanged || l.fault

/-- The NOTIFY output is driven low (R183). -/
def State.notifyLow (s : State) : Bool := s.running && s.port.latches.any

/-- Sets LIST_CHANGED where `b` holds (R15). -/
def Port.noteList (p : Port) (b : Bool) : Port :=
  { p with latches := { p.latches with listChanged := p.latches.listChanged || b } }

/-- Sets PRESENCE_CHANGED where `b` holds (R123). -/
def Port.notePresence (p : Port) (b : Bool) : Port :=
  { p with latches := { p.latches with presenceChanged := p.latches.presenceChanged || b } }

/-- Sets STATE_CHANGED (R183). -/
def Port.noteState (p : Port) : Port := { p with latches := { p.latches with stateChanged := true } }

/-- Sets the FAULT latch where `b` holds (R160). -/
def Port.noteFault (p : Port) (b : Bool) : Port :=
  { p with latches := { p.latches with fault := p.latches.fault || b } }

/-- One more event in a counter, which saturates at 65535 (R188). -/
def countUp (c : Half) : Half := if c = 0xFFFF then c else c + 1

/-- Counts one where `b` holds. -/
def countIf (b : Bool) (c : Half) : Half := if b then countUp c else c

/-- FAULT is judged afresh after a whole event; a turn from off to on sets the FAULT latch (R160). -/
def judgeFault (before after : State) : State :=
  { after with port := after.port.noteFault (!before.faultOn && after.faultOn) }

end Sys2Proof.Machine
end

