-- ==== Sys2Proof/Machine/Outbox.lean ====
section
/-!
DEFINITION. The outbox (spec/03): eligibility and choice, the offers, the end of a flight, withdrawal and clearing.
-/

namespace Sys2Proof.Machine

/-- The two kinds of field point entry (R49). -/
inductive PointKind where
  | raise
  | ret
  deriving DecidableEq, Repr

/-- The subject of a field point entry. -/
def PointKind.subject (k : PointKind) (p : LocalPoint) : Subject :=
  match k with
  | .raise => .raise p
  | .ret => .ret p

/-- The three group actions (R52). -/
inductive GroupKind where
  | ack
  | silence
  | clear
  deriving DecidableEq, Repr

/-- The subject of a group action entry. -/
def GroupKind.subject : GroupKind → Subject
  | .ack => .ack
  | .silence => .silence
  | .clear => .clear

/-- The precedence code of an entry's kind (Table 3-1). -/
def Subject.code : Subject → Nat
  | .raise _ => 0
  | .loss _ => 1
  | .ret _ => 2
  | .ack => 3
  | .silence => 4
  | .clear => 5
  | .presenceRoll => 6
  | .transferRoll _ => 6
  | .join _ => 7

/-- The entry is a RAISE or RETURN of the field point. -/
def Subject.ofPoint (p : LocalPoint) : Subject → Bool
  | .raise q => q == p
  | .ret q => q == p
  | _ => false

/-- The entry is a group action, which a newer pending one of its kind would double (R152). -/
def Subject.isGroupAction : Subject → Bool
  | .ack => true
  | .silence => true
  | .clear => true
  | _ => false

/-- The entry is a JOIN. -/
def Subject.isJoin : Subject → Bool
  | .join _ => true
  | _ => false

/-- A new entry is pending. -/
def pendingEntry (x : Subject) : Entry := { subject := x, inFlight := false }

/-- The entry is pending with this subject. -/
def isPending (x : Subject) (e : Entry) : Bool := e.subject == x && !e.inFlight

/-- Some entry, pending or in flight, has this subject. -/
def Outbox.has (o : Outbox) (x : Subject) : Bool := o.entries.any fun e => e.subject == x

/-- An entry joins at the newest end (R44). -/
def Outbox.append (o : Outbox) (x : Subject) : Outbox := { o with entries := o.entries ++ [pendingEntry x] }

/-- Withdraws the pending entry with this subject; an entry in flight stays (R55). -/
def Outbox.withdraw (o : Outbox) (x : Subject) : Outbox :=
  { o with entries := o.entries.filter fun e => !isPending x e }

/-- Clearing removes every entry and clears every owed-pair flag (R56). -/
def Outbox.cleared (_ : Outbox) : Outbox := Outbox.reset

/-- The entries of a field point, oldest first. -/
def Outbox.ofPoint (o : Outbox) (p : LocalPoint) : List Entry := o.entries.filter fun e => e.subject.ofPoint p

/-- The newest entry of a field point (R49). -/
def Outbox.newest (o : Outbox) (p : LocalPoint) : Option Entry := (o.ofPoint p).getLast?

/-- Sets or clears the owed-pair flag of a field point (R50). -/
def Outbox.setOwed (o : Outbox) (p : LocalPoint) (b : Bool) : Outbox := { o with owed := update o.owed p fun _ => b }

/-! Which entry goes next (R46, R47). -/

/-- The entry is eligible with these entries older than it (R46). -/
def eligibleAfter (older : List Entry) (e : Entry) : Bool :=
  !e.inFlight &&
    match e.subject with
    | .raise p => !older.any fun x => x.subject.ofPoint p
    | .ret p => !older.any fun x => x.subject.ofPoint p
    | _ => true

/-- The eligible entries of the rest of the outbox, oldest first. -/
def eligibleEntries (older : List Entry) : List Entry → List Entry
  | [] => []
  | e :: rest =>
    if eligibleAfter older e then e :: eligibleEntries (older ++ [e]) rest
    else eligibleEntries (older ++ [e]) rest

/-- The oldest entry of the lowest precedence code (R47). -/
def lowestCode : List Entry → Option Entry
  | [] => none
  | e :: rest =>
    match lowestCode rest with
    | none => some e
    | some b => if e.subject.code ≤ b.subject.code then some e else some b

/-- The entry that the next start takes (R47). -/
def Outbox.choice (o : Outbox) : Option Subject := (lowestCode (eligibleEntries [] o.entries)).map Entry.subject

/-- The oldest pending entry with the subject goes in flight (R48). -/
def launchEntry (x : Subject) : List Entry → List Entry
  | [] => []
  | e :: rest => if isPending x e then { e with inFlight := true } :: rest else e :: launchEntry x rest

/-- The chosen entry goes in flight (R48). -/
def Outbox.launch (o : Outbox) (x : Subject) : Outbox := { o with entries := launchEntry x o.entries }

/-! Field point offers (R49 to R51). -/

/-- A transition offer (R49). -/
def Outbox.transitionOffer (o : Outbox) (k : PointKind) (p : LocalPoint) : Outbox :=
  match o.newest p with
  | none => o.append (k.subject p)
  | some e =>
    if e.subject = k.subject p then o
    else if e.inFlight then o.append (k.subject p)
    else o.withdraw e.subject

/-- A pulse offer (R50, Table 3-5); it changes nothing while the owed-pair flag is set. -/
def Outbox.pulseOffer (o : Outbox) (p : LocalPoint) : Outbox :=
  if o.owed[p] then o
  else
    match o.ofPoint p with
    | [] => (o.append (.raise p)).append (.ret p)
    | [⟨.raise _, _⟩] => o.append (.ret p)
    | [⟨.ret _, false⟩, ⟨.raise _, false⟩] => o.withdraw (.raise p)
    | [⟨.ret _, true⟩] => o.setOwed p true
    | [⟨.ret _, true⟩, ⟨.raise _, false⟩] => (o.withdraw (.raise p)).setOwed p true
    | _ => o

/-- A republish offer (R51). -/
def Outbox.republish (o : Outbox) (p : LocalPoint) (sequence : List PointKind) : Outbox :=
  { entries :=
      (o.entries.filter fun e => !e.subject.ofPoint p) ++ sequence.map fun k => pendingEntry (k.subject p)
    owed := update o.owed p fun _ => false }

/-! The other offers (R52, R53). -/

/-- An offer of ACK, SILENCE or CLEAR (R52). -/
def Outbox.groupOffer (o : Outbox) (k : GroupKind) : Outbox :=
  if o.entries.any (isPending k.subject) then o else o.append k.subject

/-- An offer of a LOSS: one per named station, and not while a transfer roll for it is there (R53). -/
def Outbox.lossOffer (o : Outbox) (n : StationNo) : Outbox :=
  if o.has (.loss n) || o.has (.transferRoll n) then o else o.append (.loss n)

/-- An offer of a presence roll: one at most (R53). -/
def Outbox.presenceRollOffer (o : Outbox) : Outbox := if o.has .presenceRoll then o else o.append .presenceRoll

/-- An offer of a transfer roll: one per walk, and it withdraws a pending LOSS for the joiner (R53). -/
def Outbox.transferRollOffer (o : Outbox) (n : StationNo) : Outbox :=
  if o.has (.transferRoll n) then o else (o.withdraw (.loss n)).append (.transferRoll n)

/-- An offer of a JOIN: one at most (R53). -/
def Outbox.joinOffer (o : Outbox) (r : Reason) : Outbox :=
  if o.entries.any (fun e => e.subject.isJoin) then o else o.append (.join r)

/-! The end of a flight (R48, R50, R59, R152). -/

/-- The subject of the entry in flight. -/
def Outbox.flying (o : Outbox) : Option Subject := (o.entries.find? Entry.inFlight).map Entry.subject

/-- At the end of a RETURN's flight a set owed-pair flag clears and the pulse offer is made again (R50). -/
def Outbox.settle (o : Outbox) (flown : Option Subject) : Outbox :=
  match flown with
  | some (.ret p) => if o.owed[p] then (o.setOwed p false).pulseOffer p else o
  | _ => o

/-- The entry in flight returns to pending in its place; a newer pending group action of its kind is withdrawn
(R48, R152). -/
def landEntries : List Entry → List Entry
  | [] => []
  | e :: rest =>
    if e.inFlight then
      { e with inFlight := false } ::
        (if e.subject.isGroupAction then rest.filter fun x => !isPending e.subject x else rest)
    else e :: landEntries rest

/-- The flight ends and the entry returns to pending (R48, R50, R152). -/
def Outbox.land (o : Outbox) : Outbox := Outbox.settle { o with entries := landEntries o.entries } o.flying

/-- The flight ends in acceptance and the entry leaves (R59, R50). -/
def Outbox.depart (o : Outbox) : Outbox :=
  Outbox.settle { o with entries := o.entries.eraseP Entry.inFlight } o.flying

end Sys2Proof.Machine
end

