-- ==== Sys2Proof/Machine/Ops.lean ====
section
/-!
DEFINITION. Named operations over the state: writing the list, the station state and the presence entries, each with
the report its rule asks for, offers to the outbox, and the entries to JOINING, MUTED, DISCORD and ACTIVE.
-/

namespace Sys2Proof.Machine

/-! The list (R15). -/

/-- Writes the records and the overflow indication; a change of either is reported (R15). -/
def State.putList (s : State) (rs : List Record) (overflow : Bool) : State :=
  { s with
    annList := { s.annList with records := rs, overflow := overflow }
    port := s.port.noteList (decide (rs ≠ s.annList.records ∨ overflow ≠ s.annList.overflow)) }

/-- Writes the walks (R16). -/
def State.putWalks (s : State) (ws : List Walk) : State := { s with annList := { s.annList with walks := ws } }

/-- Emptying: every record, the overflow indication and every walk go (R10). -/
def State.emptied (s : State) : State := (s.putList [] false).putWalks []

/-- The list digest, as the list stands (R14). -/
def State.listDigest (s : State) : Half := listDigestOf s.annList.records

/-- The walk for a joiner, if this station holds one (R16). -/
def State.walkFor (s : State) (n : StationNo) : Option Walk := s.annList.walks.find? fun w => w.target == n

/-! The outbox. -/

/-- Changes the outbox. -/
def State.mapOutbox (s : State) (f : Outbox → Outbox) : State := { s with outbox := f s.outbox }

/-- An offer of any kind but JOIN: considered only while the station is ACTIVE (R45). -/
def State.offer (s : State) (f : Outbox → Outbox) : State :=
  { s with outbox := if s.isActive then f s.outbox else s.outbox }

/-- An offer of a JOIN: considered only while the station is not ACTIVE (R45). -/
def State.offerJoin (s : State) (r : Reason) : State :=
  { s with outbox := if s.isActive then s.outbox else s.outbox.joinOffer r }

/-! The station state (R183). -/

/-- A change of station state or of JOINING phase, reported (R99, R121, R183). -/
def State.enter (s : State) (st : Station) : State := { s with station := st, port := s.port.noteState }

/-- A timer or flag inside the station state moves; this is no change of state. -/
def State.putStation (s : State) (st : Station) : State := { s with station := st }

/-- The line count after one more accepted bulletin, modulo 256 (R84). -/
def State.countAccepted (s : State) : State := { s with lineCount := s.lineCount + 1 }

/-! The line interface. -/

/-- Changes the line interface. -/
def State.mapLine (s : State) (f : Line → Line) : State := { s with line := f s.line }

/-- Changes the diagnostic counters. -/
def State.mapCounters (s : State) (f : Counters → Counters) : State :=
  { s with port := { s.port with counters := f s.port.counters } }

/-! Presence entries (R122). -/

/-- The state of a peer's entry. -/
def State.peerState (s : State) (n : StationNo) : PeerState := (s.presence.peers[n]).state

/-- Writes an entry's state. A change sets the silence counter to 0 and is reported; the own entry is not kept
(R122, R123). -/
def State.setPeer (s : State) (n : StationNo) (st : PeerState) : State :=
  let changes := decide (n ≠ s.own ∧ s.peerState n ≠ st)
  { s with
    presence :=
      if changes then
        { s.presence with peers := update s.presence.peers n fun _ => { state := st, silence := 0, due := false } }
      else s.presence
    port := s.port.notePresence changes }

/-- A silence counter becomes 0 (R124, R125). -/
def State.clearSilence (s : State) (n : StationNo) : State :=
  { s with presence := { s.presence with peers := update s.presence.peers n fun e => { e with silence := 0 } } }

/-- Some peer's entry is ACTIVE (R77). -/
def State.hasActivePeer (s : State) : Bool :=
  (List.finRange 32).any fun n => decide (n ≠ s.own) && decide (s.peerState n = .active)

/-- Every entry becomes ABSENT with its counter at 0; reported when some entry was not ABSENT (R123). -/
def State.forgetPeers (s : State) : State :=
  { s with
    presence := { s.presence with peers := Vector.replicate 32 Peer.reset }
    port :=
      s.port.notePresence
        ((List.finRange 32).any fun n => decide (n ≠ s.own) && decide (s.peerState n ≠ .absent)) }

/-- Writes the quiet counter (R129). -/
def State.putQuiet (s : State) (q : Nat) : State := { s with presence := { s.presence with quiet := q } }

/-! Local points (R134). -/

/-- Changes a local point. -/
def State.mapPoint (s : State) (p : LocalPoint) (f : Point → Point) : State :=
  { s with points := update s.points p f }

/-! Entries to the station states. -/

/-- Leaving MUTED makes the strike count 0; otherwise it is kept (R82, R101). -/
def strikesOnLeaving (st : Station) (strikes : Nat) : Nat :=
  match st with
  | .muted _ _ => 0
  | _ => strikes

/-- Entry to JOINING (R101): the list is emptied, the outbox holds the JOIN alone, the phase is asking, the presence
table is set to ABSENT (R123), the line count is kept, and the strike count is kept except on leaving MUTED. An entry
with reason RESYNC is counted (R93). -/
def State.enterJoining (s : State) (r : Reason) : State :=
  let strikes := strikesOnLeaving s.station s.line.strikes
  ((((((s.emptied.enter (.joining .asking)).mapOutbox Outbox.cleared).offerJoin r).forgetPeers).mapLine fun l =>
        { l with strikes := strikes }).mapCounters fun c =>
    { c with resyncs := countIf (decide (r = .resync)) c.resyncs })

/-- Entry to MUTED (R80): the outbox is cleared, the walks are discarded, the timer starts at 0, the step-lost flag
is no (R91), and one mute is counted. The list and the presence table are kept. -/
def State.enterMuted (s : State) : State :=
  (((s.enter (.muted 0 false)).mapOutbox Outbox.cleared).putWalks []).mapCounters fun c =>
    { c with mutes := countUp c.mutes }

/-- Entry to DISCORD (R96): the outbox is cleared and the walks are discarded; list, overflow indication, line count
and presence table are kept; the strike count is kept except on leaving MUTED. -/
def State.enterDiscord (s : State) : State :=
  let strikes := strikesOnLeaving s.station s.line.strikes
  (((s.enter .discord).mapOutbox Outbox.cleared).putWalks []).mapLine fun l => { l with strikes := strikes }

/-- Entry to ACTIVE: the phase and its timer end (R104, R113) and the quiet counter becomes 0 (R129). -/
def State.enterActive (s : State) : State := (s.enter .active).putQuiet 0

/-- A transfer timeout or transfer error (R116): the list is emptied, the phase becomes asking, and a JOIN with
reason RETRY is offered. Line count, strike count and presence table are kept. -/
def State.retryJoin (s : State) : State := (s.emptied.enter (.joining .asking)).offerJoin .retry

/-! The ends of the timers that boundaries count. -/

/-- The third boundary of LISTEN has fallen (R177). -/
def Station.listenOver : Station → Bool
  | .listen n => decide (n = Config.listenLimit)
  | _ => false

/-- The transfer timer stands at 4 (R115). -/
def Station.transferOver : Station → Bool
  | .joining (.admitted t) => decide (t = Config.transferLimit)
  | .joining (.filling t) => decide (t = Config.transferLimit)
  | _ => false

/-- The MUTED timer stands at 64 (R82). -/
def Station.mutedOver : Station → Bool
  | .muted t _ => decide (t = Config.mutedLimit)
  | _ => false

/-- A boundary has brought a timer to its end, and the end has not been taken yet. -/
def Station.timerOver (st : Station) : Bool := st.listenOver || st.transferOver || st.mutedOver

/-- The end of a timer that is due is taken: LISTEN's (R177), the transfer timer's (R116) or MUTED's (R82). What comes
after the boundary finds the station as this leaves it (R117, log entry 20). -/
def State.takeTimerEnd (s : State) : State :=
  if s.station.listenOver then s.enterJoining .start
  else if s.station.transferOver then s.retryJoin
  else if s.station.mutedOver then s.enterJoining .unmute
  else s

end Sys2Proof.Machine
end

