-- ==== Sys2Proof/Machine/Presence.lean ====
section
/-!
DEFINITION. The presence unit (spec/07): hearing frames, entry changes at acceptance, LOSS requeue, and the commands
SILENCE_LIMIT and QUIET_COUNTER_LIMIT.
-/

namespace Sys2Proof.Machine

/-- How a station comes to accept a bulletin (R76, R90, R91, R92, R94). -/
inductive Acceptance where
  /-- It sent the bulletin (R76). -/
  | sender
  /-- ACTIVE, and it drove AGREE (R90). -/
  | agreed
  /-- ACTIVE, and it drove STEP on a JOIN that the line accepted (R94). -/
  | steppedJoin
  /-- MUTED and in step (R91). -/
  | muted
  /-- A filling joiner in step (R92). -/
  | filling
  deriving DecidableEq, Repr

/-! Hearing (R125). -/

/-- LISTEN or JOINING, phase asking: the states in which hearing notes a sender (R125). -/
def Station.notesSenders : Station → Bool
  | .listen _ => true
  | .joining .asking => true
  | _ => false

/-- Noting the sender of a well-formed frame: a JOIN makes ABSENT JOINING, any other kind makes ABSENT or JOINING
ACTIVE (R125). -/
def State.noteHeard (s : State) (f : Frame) : State :=
  if s.station.notesSenders then
    match s.peerState f.sender with
    | .absent => s.setPeer f.sender (if f.isJoin then .joining else .active)
    | .joining => if f.isJoin then s else s.setPeer f.sender .active
    | .active => s
    | .silent => s
    | .discord => s
  else s

/-- A well-formed frame is heard: the silence counter clears, a pending LOSS naming the sender is withdrawn, and the
sender is noted; the station's own number is no peer (R125). DESIGN CHOICE (log entry 22): the silence counter clears in
MUTED with step lost too. -/
def State.hear (s : State) (f : Frame) : State :=
  if f.sender = s.own then s
  else ((s.clearSilence f.sender).mapOutbox fun o => o.withdraw (.loss f.sender)).noteHeard f

/-! Entry changes at an accepted bulletin (Table 7-3). -/

/-- The last row: the sender of any bulletin but a JOIN (R124). -/
def State.noteSender (s : State) (n : StationNo) : State :=
  match s.peerState n with
  | .absent => s.setPeer n .active
  | .joining => s.setPeer n .active
  | .active => s
  | .silent => s
  | .discord => s

/-- The LOSS row, judged on the table as it stood (`before`) (R124, R130). -/
def State.markLost (s : State) (before : PeerState) (n : StationNo) : State :=
  match before with
  | .absent => s.setPeer n .silent
  | .joining => s.setPeer n .silent
  | .active => s.setPeer n .silent
  | .silent => s
  | .discord => s

/-- The transfer roll rows: a last roll makes its target ACTIVE unless it is DISCORD, and every roll clears the
target's silence counter (R124). -/
def State.noteTarget (s : State) (r : Roll) : State :=
  (if r.last && decide (s.peerState r.target ≠ .discord) then s.setPeer r.target .active else s).clearSilence r.target

/-- The JOIN row, with R94's DISCORD mark; at a passive station a DISCORD entry stays (R124). -/
def State.noteJoin (s : State) (how : Acceptance) (n : StationNo) : State :=
  match how with
  | .sender => s.setPeer n .joining
  | .agreed => s.setPeer n .joining
  | .steppedJoin => s.setPeer n .discord
  | .muted => if s.peerState n = .discord then s else s.setPeer n .joining
  | .filling => if s.peerState n = .discord then s else s.setPeer n .joining

/-- The presence changes of an accepted bulletin (R124). Where two rows of Table 7-3 meet on one entry, because a LOSS or a
transfer roll names its own sender, the spec does not say which row wins: a LOSS leaves SILENT (DEDUCED, log entry 12), and
at a transfer roll each row that changes the entry acts, so that a last roll makes a SILENT sender ACTIVE and any roll an
ABSENT or JOINING one (DESIGN CHOICE, log entry 12). -/
def State.presenceEffects (s : State) (how : Acceptance) (f : Frame) : State :=
  match f.body with
  | .join _ _ => s.noteJoin how f.sender
  | .loss n => (s.noteSender f.sender).markLost (s.peerState n) n
  | .transferRoll r => (s.noteSender f.sender).noteTarget r
  | .raise _ _ => s.noteSender f.sender
  | .ret _ _ => s.noteSender f.sender
  | .ack _ => s.noteSender f.sender
  | .silence _ => s.noteSender f.sender
  | .clear _ => s.noteSender f.sender
  | .presenceRoll _ _ _ => s.noteSender f.sender

/-- One loss record judged at the end of a transfer: an ALERT or HELD one marks its peer SILENT unless the entry is
DISCORD (R126). -/
def State.markFromList (s : State) (n : StationNo) : State :=
  match (findRecord s.annList.records (lossPoint n)).map Record.state with
  | some .alert => if s.peerState n = .discord then s else s.setPeer n .silent
  | some .held => if s.peerState n = .discord then s else s.setPeer n .silent
  | _ => s

/-- Loss records mark peers SILENT when a joiner becomes ACTIVE (R126). -/
def State.markFromLossRecords (s : State) : State := (List.finRange 32).foldl State.markFromList s

/-! LOSS requeue at a removal acceptance (R131). -/

/-- Offers a LOSS for a peer that is SILENT and has no loss record (R131). -/
def State.requeueLoss (s : State) (n : StationNo) : State :=
  if n ≠ s.own ∧ s.peerState n = .silent ∧ holds s.annList.records (lossPoint n) = false then
    s.offer fun o => o.lossOffer n
  else s

/-- The LOSS requeue, in ascending order of station number (R131). -/
def State.requeueLosses (s : State) : State := (List.finRange 32).foldl State.requeueLoss s

/-! Counters at a boundary (R127, R129). -/

/-- The entry's state lets its silence counter run (Table 7-2). -/
def PeerState.counts : PeerState → Bool
  | .absent => false
  | .joining => true
  | .active => true
  | .silent => false
  | .discord => false

/-- A silence counter at a boundary: it rises while the entry is JOINING or ACTIVE and stops at 8, where a LOSS is
due (R127, R128). -/
def Peer.boundary (e : Peer) : Peer :=
  if e.state.counts then
    { e with
      silence := min Config.silenceLimit (e.silence + 1)
      due := decide (Config.silenceLimit ≤ e.silence + 1) }
  else { e with due := false }

/-- The presence unit at a boundary (R127, R129): the quiet counter rises while the station is ACTIVE and stops at 2,
where a presence roll is due. -/
def Presence.boundary (p : Presence) (isActive : Bool) : Presence :=
  { peers := p.peers.map Peer.boundary
    quiet := if isActive then min Config.quietLimit (p.quiet + 1) else p.quiet
    quietDue := isActive && decide (Config.quietLimit ≤ p.quiet + 1) }

/-- The LOSS of a peer at its limit is offered (R128); it is no longer due. -/
def State.offerLossAtLimit (s : State) (n : StationNo) : State :=
  let offers := (s.peerState n).counts && decide ((s.presence.peers[n]).silence = Config.silenceLimit)
  ({ s with
      presence :=
        { s.presence with peers := update s.presence.peers n fun e => { e with due := false } } }).offer
    fun o => if offers then o.lossOffer n else o

/-- SILENCE_LIMIT (R128): at a boundary at which the peer's silence counter stands at 8 and its entry is JOINING or
ACTIVE. -/
def execSilenceLimit (n : StationNo) (s : State) : Host.Outcome State Fault Refusal :=
  if s.inService && decide (n ≠ s.own) && (s.presence.peers[n]).due then .next (s.offerLossAtLimit n) else .next s

/-- The presence roll at the limit is offered (R129); it is no longer due. -/
def State.offerRollAtLimit (s : State) : State :=
  ({ s with presence := { s.presence with quietDue := false } }).offer fun o =>
    if s.presence.quiet = Config.quietLimit then o.presenceRollOffer else o

/-- QUIET_COUNTER_LIMIT (R129): at a boundary at which the quiet counter stands at 2. -/
def execQuietCounterLimit (s : State) : Host.Outcome State Fault Refusal :=
  if s.inService && s.presence.quietDue then .next s.offerRollAtLimit else .next s

end Sys2Proof.Machine
end

