-- ==== Sys2Proof/Machine/Operands.lean ====
section
/-!
DEFINITION. Reading the operands of commands: slot levels, and input levels corrected for polarity.
-/

namespace Sys2Proof.Machine

/-- What the three slots show at this station. A slot is seen when it reads dominant (R72). -/
structure Seen where
  veto : Bool
  agree : Bool
  step : Bool
  deriving DecidableEq, Repr

/-- The level of a slot cell: dominant when another station drives it or this one does (R61, R72). -/
def slotLevel (read : Level) (drive : Option Slot) (x : Slot) : Level :=
  if drive = some x then .dominant else read

/-- The slots seen, with the one this station drives (R72). -/
def slotsSeen (sl : Slots) (drive : Option Slot) : Seen :=
  { veto := slotLevel sl.veto drive .veto == .dominant
    agree := slotLevel sl.agree drive .agree == .dominant
    step := slotLevel sl.step drive .step == .dominant }

/-- The three slot cells as the line carries them, in order (R62). -/
def slotCells (sl : Slots) (drive : Option Slot) : List Level :=
  [slotLevel sl.veto drive .veto, slotLevel sl.agree drive .agree, slotLevel sl.step drive .step]

/-- AGREE and no VETO: the frame is accepted on the line (R90). -/
def Seen.accepted (x : Seen) : Bool := x.agree && !x.veto

/-- None of the three slots is seen. -/
def Seen.silent (x : Seen) : Bool := !x.veto && !x.agree && !x.step

/-- STEP alone (R89). -/
def Seen.stepAlone (x : Seen) : Bool := x.step && !x.veto && !x.agree

/-- A field input's sample, corrected for polarity: abnormal or not (R135). -/
def abnormalSample (p : PointSettings) (high : Bool) : Bool := xor high p.activeLow

/-- A button input's sample: read low is pressed (R150). -/
def pressedSample (high : Bool) : Bool := !high

/-- The bit of a button among the button levels. -/
def buttonIndex : Button → Nat
  | .ack => 0
  | .silence => 1
  | .clear => 2
  | .test => 3

end Sys2Proof.Machine
end

