-- ==== Sys2Proof/Machine/Sense.lean ====
section
/-!
DEFINITION. The sense unit (spec/08): debounce, the caught latch, publishing, WAITING and reconciliation, and the
command DEBOUNCED_TRANSITION.
-/

namespace Sys2Proof.Machine

/-- The settings of a local point (R134). -/
def State.pointSettings (s : State) (p : LocalPoint) : PointSettings := s.inUse.points[p]

/-- One sample of a point (R136). At the sample that completes the run the transition is due: the level changes at
DEBOUNCED_TRANSITION. A point whose transition is due is not sampled again before it (log entry 7). -/
def Point.sample (pt : Point) (count : Nat) (abnormal : Bool) : Point :=
  if pt.due then pt
  else if abnormal = pt.abnormal then { pt with run := 0 }
  else if pt.run + 1 < count then { pt with run := pt.run + 1 }
  else { pt with run := 0, due := true }

/-- All eight inputs are read at the same tick, each with its own polarity and count (R135). -/
def samplePoints (c : Settings) (fields : BitVec 8) (pts : Vector Point 8) : Vector Point 8 :=
  Vector.ofFn fun p : Fin 8 =>
    (pts[p]).sample (c.points[p]).count (abnormalSample c.points[p] (fields.getLsbD p.val))

/-- The level changes and the run count becomes 0 (R136); a transition to ABNORMAL sets the caught latch (R137). -/
def Point.transition (pt : Point) : Point :=
  { pt with run := 0, due := false, abnormal := !pt.abnormal, caught := pt.caught || !pt.abnormal }

/-- The offer that a debounced transition leads to (R138, R139, R140): `abnormal` is the level reached. -/
def transitionOffers (mode : PointMode) (abnormal : Bool) (p : LocalPoint) (o : Outbox) : Outbox :=
  match mode, abnormal with
  | .level, true => o.transitionOffer .raise p
  | .level, false =>
    if o.newest p = some (pendingEntry (.raise p)) then o.pulseOffer p else o.transitionOffer .ret p
  | .pulse, true => o.pulseOffer p
  | .pulse, false => o

/-- The debounced transition of a point, with its offer while the station is ACTIVE (R137 to R141). -/
def State.transition (s : State) (p : LocalPoint) : State :=
  (s.mapPoint p Point.transition).offer (transitionOffers (s.pointSettings p).mode (!(s.points[p]).abnormal) p)

/-- DEBOUNCED_TRANSITION (R136): at the sample tick at which the run completed. -/
def execDebouncedTransition (p : LocalPoint) (s : State) : Host.Outcome State Fault Refusal :=
  if s.inService && (s.points[p]).due then .next (s.transition p) else .next s

/-! The fate of the station's own RAISE (R143). -/

/-- Published clears the caught latch and WAITING; refused sets WAITING and leaves the latch (R24, R143). -/
def Point.report (pt : Point) (result : RaiseResult) : Point :=
  match result with
  | .published => { pt with caught := false, waiting := false }
  | .refused => { pt with waiting := true }
  | .notRaise => pt
  | .ignored => pt

/-! Requeue at a removal acceptance (R144). -/

/-- The republish sequence of a WAITING point; empty where no offer is made (Table 8-2). -/
def requeueSequence (mode : PointMode) (abnormal caught : Bool) : List PointKind :=
  match mode, abnormal, caught with
  | .level, true, _ => [.raise]
  | .level, false, true => [.raise, .ret]
  | .level, false, false => []
  | .pulse, _, true => [.raise, .ret]
  | .pulse, _, false => []

/-- A republish offer of a sequence; an empty one is no offer and leaves the entries as they are (R144). -/
def State.republish (s : State) (p : LocalPoint) (sequence : List PointKind) : State :=
  s.offer fun o => if sequence = [] then o else o.republish p sequence

/-- Requeue of one point, if it is WAITING (R144). -/
def State.requeuePoint (s : State) (p : LocalPoint) : State :=
  let pt := s.points[p]
  if pt.waiting then
    (s.mapPoint p fun x => { x with waiting := false }).republish p
      (requeueSequence (s.pointSettings p).mode pt.abnormal pt.caught)
  else s

/-- At a removal acceptance an ACTIVE station goes through its WAITING points in ascending order (R144). -/
def State.requeueWaiting (s : State) : State :=
  if s.isActive then (List.finRange 8).foldl State.requeuePoint s else s

/-! Reconciliation (R145 to R147). -/

/-- The record shows the point abnormal: ALERT or HELD. -/
def showsAbnormal (r : Option RecordState) : Bool := r == some .alert || r == some .held

/-- The republish sequence of reconciliation, empty for none (Tables 8-3, 8-4). -/
def reconcileSequence (mode : PointMode) (abnormal caught : Bool) (r : Option RecordState) : List PointKind :=
  match mode, abnormal, caught, showsAbnormal r with
  | .level, true, _, true => []
  | .level, true, _, false => [.raise]
  | .level, false, _, true => [.ret]
  | .level, false, true, false => [.raise, .ret]
  | .level, false, false, false => []
  | .pulse, _, _, true => [.ret]
  | .pulse, _, true, false => [.raise, .ret]
  | .pulse, _, false, false => []

/-- The caught latch after reconciliation: cleared where the record shows the point abnormal, else as it was
(Tables 8-3, 8-4). -/
def reconcileCaught (caught : Bool) (r : Option RecordState) : Bool := caught && !showsAbnormal r

/-- Reconciliation of one point; WAITING is cleared whatever follows (R145). -/
def State.reconcilePoint (s : State) (p : LocalPoint) : State :=
  let pt := s.points[p]
  let r := (findRecord s.annList.records (fieldPoint s.own p)).map Record.state
  (s.mapPoint p fun x => { x with waiting := false, caught := reconcileCaught x.caught r }).republish p
    (reconcileSequence (s.pointSettings p).mode pt.abnormal pt.caught r)

/-- Reconciliation, in ascending order of local point (R145). -/
def State.reconcile (s : State) : State := (List.finRange 8).foldl State.reconcilePoint s

end Sys2Proof.Machine
end

