-- ==== Sys2Proof/Machine/Acceptance.lean ====
section
/-!
DEFINITION. Acceptance and its dispatch (R58, R59): line count, list, presence table, walks, reports and offers; and
the taking of transfer rolls at a joiner (spec/06).
-/

namespace Sys2Proof.Machine

/-- The frame's count equals the line count; every station is in step with a JOIN (R85). -/
def State.inStep (s : State) (f : Frame) : Bool := f.isJoin || f.count == s.lineCount

/-- The list's share of an accepted bulletin (R58): records, overflow indication (R13), the count of a refusal (R6),
and the repair of walk cursors at a removal acceptance (R8). -/
def State.applyAlarm (s : State) (result : RaiseResult) (rs : List Record) : State :=
  let removed := removes s.annList.records rs
  let walks := if removed then repairWalks s.annList.records rs s.annList.walks else s.annList.walks
  ((s.putList rs (overflowAfter result removed s.annList.overflow)).putWalks walks).mapCounters fun c =>
    { c with overflowRefusals := countIf (decide (result = .refused)) c.overflowRefusals }

/-- The report of the station's own RAISE to its sense unit; no other station's unit receives one (R24). -/
def State.reportRaise (s : State) (how : Acceptance) (f : Frame) (result : RaiseResult) : State :=
  match how, f.body with
  | .sender, .raise p _ => s.mapPoint p fun pt => pt.report result
  | _, _ => s

/-! Walks (R106, R107, R109, R118). -/

/-- Discards the walk for a joiner and withdraws its pending roll (R118, R55). -/
def State.discardWalk (s : State) (n : StationNo) : State :=
  (s.putWalks (s.annList.walks.filter fun w => w.target != n)).mapOutbox fun o => o.withdraw (.transferRoll n)

/-- The walk at the acceptance of its own roll: the cursor moves to the record sent, and a last roll completes the
walk (R109). -/
def advanceWalks (r : Roll) (ws : List Walk) : List Walk :=
  if r.last then ws.filter fun w => w.target != r.target
  else
    ws.map fun w =>
      if w.target = r.target then
        match r.record with
        | some x => { w with cursor := some x.id }
        | none => w
      else w

/-- What an accepted bulletin does to the walks, and the withdrawals that go with it (R55, R107, R109, R118). -/
def State.walkEffects (s : State) (how : Acceptance) (f : Frame) : State :=
  match f.body with
  | .loss n => (s.discardWalk n).mapOutbox fun o => o.withdraw (.loss n)
  | .join _ _ => (s.discardWalk f.sender).mapOutbox fun o => o.withdraw (.loss f.sender)
  | .transferRoll r =>
    if how = .sender then s.putWalks (advanceWalks r s.annList.walks) else s.discardWalk r.target
  | _ => s

/-- The offers of walks at an acceptance: a walk created at an agreed JOIN offers its first roll (R106), and the
sender of a roll not marked last offers the next one (R109). -/
def State.walkOffers (s : State) (how : Acceptance) (f : Frame) : State :=
  match how, f.body with
  | .agreed, .join _ _ =>
    (s.putWalks (s.annList.walks ++ [{ target := f.sender, cursor := none }])).offer fun o =>
      o.transferRollOffer f.sender
  | .sender, .transferRoll r => s.offer fun o => if r.last then o else o.transferRollOffer r.target
  | _, _ => s

/-- An accepted LOSS naming the station itself takes it into JOINING with reason LOST, unless it is joining already
(R132, R120). -/
def State.ownLoss (s : State) (how : Acceptance) (f : Frame) : State :=
  match how, f.body with
  | .filling, _ => s
  | _, .loss n => if n = s.own then s.enterJoining .lost else s
  | _, _ => s

/-- The offers of a removal acceptance (R8, R131, R144). -/
def State.afterRemoval (s : State) (removed : Bool) : State :=
  if removed then s.requeueWaiting.requeueLosses else s

/-- Acceptance of a bulletin, with its effects dispatched whole (R58): offers are judged against the station as it
stands after the bulletin. -/
def State.accept (s : State) (how : Acceptance) (f : Frame) : State :=
  let outcome := alarmSequence s.options s.inUse.lossGroup (decide (how = .filling)) f s.annList.records
  let removed := removes s.annList.records outcome.2
  ((((((s.countAccepted.applyAlarm outcome.1 outcome.2).reportRaise how f outcome.1).presenceEffects how f).walkEffects
            how f).ownLoss how f).walkOffers how f).afterRemoval removed

/-! Taking transfer rolls (R110 to R113). -/

/-- The last roll taken completes the transfer (R113): overflow indication (R13), ACTIVE, the marks of R126, then
reconciliation. -/
def State.completeTransfer (s : State) (overflow : Bool) : State :=
  (((s.putList s.annList.records
            (overflow && decide (s.annList.records.length = Config.listCapacity))).enterActive).markFromLossRecords).reconcile

/-- The record of a roll is applied and the transfer timer restarts at 0; a transfer error comes first, even at a
last roll (R111, R112, R113). -/
def State.takeRoll (s : State) (r : Roll) : State :=
  match takeRecord s.annList.records r.predecessor r.record with
  | none => s.retryJoin
  | some rs =>
    let s1 := (s.putList rs s.annList.overflow).putStation (.joining (.filling 0))
    if r.last then s1.completeTransfer r.overflow else s1

/-- The first roll an admitted joiner takes: the count is the roll's count and one more, and the phase becomes
filling (R111). -/
def State.takeFirstRoll (s : State) (f : Frame) (r : Roll) : State :=
  ((({ s with lineCount := f.count + 1 }).presenceEffects .filling f).enter (.joining (.filling 0))).takeRoll r

/-- A filling joiner accepts a frame it is in step with: a roll addressed to it is taken, any other bulletin is
applied in part (R92, R112, R114). -/
def State.acceptFilling (s : State) (f : Frame) : State :=
  match f.body with
  | .transferRoll r =>
    if r.target = s.own then (s.countAccepted.presenceEffects .filling f).takeRoll r else s.accept .filling f
  | _ => s.accept .filling f

/-! The outcome of the station's own JOIN (R104, R105). -/

/-- Founding: the line count is 1, the station is ACTIVE, and it reconciles against the list (R104). -/
def State.found (s : State) : State := ({ s with lineCount := 1 }).enterActive.reconcile

/-- Admission: the count advances and the transfer timer starts at 0 (R105). -/
def State.becomeAdmitted (s : State) : State := s.countAccepted.enter (.joining (.admitted 0))

end Sys2Proof.Machine
end

