-- ==== Sys2Proof/Machine/Line.lean ====
section
/-!
DEFINITION. The line interface outside and inside a frame up to its check (spec/04): gap, starts, arbitration,
collision and the held line. The commands GAP_FRAMED, OWN_START, ANOTHERS_START, DOMINANT_CELL_NOT_A_START,
ARBITRATION_LOST, COLLISION, LINE_HELD and LINE_HELD_END.
-/

namespace Sys2Proof.Machine

/-! Content at transmission start (R54, R108). -/

/-- The list length that a presence roll carries, 0 to 64 (Table 3-2). -/
def State.listLength (s : State) : Fin 65 := ⟨min s.annList.records.length 64, by omega⟩

/-- The body assembled for an entry at its start cell (Table 3-6). -/
def State.assembleBody (s : State) (x : Subject) : Bulletin :=
  match x with
  | .raise p => .raise p (s.pointSettings p).group
  | .loss n => .loss n
  | .ret p => .ret p (s.pointSettings p).group
  | .ack => .ack s.inUse.coverage
  | .silence => .silence s.inUse.coverage
  | .clear => .clear s.inUse.coverage
  | .presenceRoll => .presenceRoll s.inUse.digest s.listDigest s.listLength
  | .transferRoll n =>
    .transferRoll
      (rollOf n s.annList.overflow s.annList.records
        (match s.walkFor n with
        | some w => w.cursor
        | none => none))
  | .join r => .join r s.inUse.digest

/-- The frame assembled for an entry at its start cell: a JOIN carries count 0 (R41, R54). -/
def State.assemble (s : State) (x : Subject) : Frame :=
  { body := s.assembleBody x, sender := s.own, count := if x.isJoin then 0 else s.lineCount }

/-! The gap (R64). -/

/-- Reading recessive cells outside a frame: the gap count rises and stops at 24, where an unframed station becomes
framed (R64); the held run returns to 0 (R71). -/
def Line.readRecessive (l : Line) (n : Nat) : Line :=
  { l with
    gap := min Config.gapLimit (l.gap + n)
    held := if n = 0 then l.held else 0
    framed := l.framed || decide (Config.gapLimit ≤ l.gap + n) }

/-- Outside a frame, with the line not held: where cells count toward the gap (R64, R71). -/
def Line.counting (l : Line) : Bool := l.frame.isNone && decide (l.held < Config.heldLimit)

/-- The gap count has reached the station's own start threshold (R65). An unframed station's threshold, 24, is the
count at which it becomes framed. -/
def Line.mayStart (l : Line) : Bool := l.framed && decide (Config.framedThreshold ≤ l.gap)

/-- The gap count has reached the follow threshold: 11 framed, 12 unframed (R65). -/
def Line.mayFollow (l : Line) : Bool :=
  decide ((if l.framed then Config.framedThreshold else Config.unframedFollow) ≤ l.gap)

/-- The station begins to transmit a frame at its lead cell; it is framed by taking the start (R64, R65). -/
def Line.beginSending (l : Line) (f : Frame) : Line :=
  { l with
    gap := 0
    held := 0
    framed := true
    frame := some { cell := 0, role := .transmitter f, heard := .unchecked, drive := none }
    cellClock := 0 }

/-- The station takes another's frame start and receives; the lead cell is one dominant cell read (R64, R65, R71). -/
def Line.beginReceiving (l : Line) : Line :=
  { l with
    gap := 0
    held := 1
    framed := true
    frame := some { cell := 0, role := .receiver, heard := .unchecked, drive := none }
    cellClock := 0 }

/-- An entry is eligible (R46). -/
def State.hasEligible (s : State) : Bool := s.outbox.choice.isSome

/-- The chosen entry goes in flight and its frame begins (R47, R48, R54, R65). -/
def State.startOwn (s : State) : State :=
  match s.outbox.choice with
  | none => s
  | some x => (s.mapLine fun l => l.beginSending (s.assemble x)).mapOutbox fun o => o.launch x

/-- GAP_FRAMED (R64): the recessive cells read outside a frame bring an unframed station's gap count to 24. -/
def execGapFramed (s : State) : Host.Outcome State Fault Refusal :=
  if s.inService && s.line.counting && !s.line.framed then
    .next (s.mapLine fun l => { l with gap := Config.gapLimit, held := 0, framed := true })
  else .next s

/-- OWN_START (R65): with the gap at the start threshold, at the station's own boundary or at another's lead edge,
and an eligible entry. -/
def execOwnStart (recessive : Nat) (s : State) : Host.Outcome State Fault Refusal :=
  if s.inService && s.line.counting && (s.line.readRecessive recessive).mayStart && s.hasEligible then
    .next (s.mapLine fun l => l.readRecessive recessive).startOwn
  else .next s

/-- ANOTHERS_START (R65): with the gap at the follow threshold, a dominant cell that the station did not drive; a
framed station with an eligible entry begins its own frame instead (OWN_START). -/
def execAnothersStart (recessive : Nat) (s : State) : Host.Outcome State Fault Refusal :=
  if s.inService && s.line.counting && (s.line.readRecessive recessive).mayFollow
      && !((s.line.readRecessive recessive).framed && s.hasEligible) then
    .next (s.mapLine fun l => (l.readRecessive recessive).beginReceiving)
  else .next s

/-- DOMINANT_CELL_NOT_A_START (R64): below the follow threshold; the gap count returns to 0 and the cell counts
toward the held run. The twelfth dominant cell in a row is LINE_HELD. -/
def execDominantCellNotAStart (recessive : Nat) (s : State) : Host.Outcome State Fault Refusal :=
  if s.inService && s.line.counting && !(s.line.readRecessive recessive).mayFollow
      && decide ((s.line.readRecessive recessive).held + 1 < Config.heldLimit) then
    .next (s.mapLine fun l =>
      { l.readRecessive recessive with gap := 0, held := (l.readRecessive recessive).held + 1 })
  else .next s

/-! Arbitration and collision (R66 to R68). -/

/-- The level the sender of a frame drives in a byte cell (R61). -/
def sentLevel (f : Frame) (cell : Nat) : Level := cellAt (frameCells f) cell

/-- The frame followed, changed to another role from a cell on. -/
def InFrame.become (x : InFrame) (cell : Nat) (role : Role) : InFrame := { x with cell := cell, role := role }

/-- The transmitter stops and its entry returns to pending; from that cell it is a receiver (R67). -/
def State.loseArbitration (s : State) (x : InFrame) (cell : Nat) : State :=
  (s.mapLine fun l => { l with frame := some (x.become cell .receiver) }).mapOutbox Outbox.land

/-- ARBITRATION_LOST (R66, R67): in a data cell of the precedence byte in which the station sends recessive. -/
def execArbitrationLost (cell : Fin 8) (s : State) : Host.Outcome State Fault Refusal :=
  match s.line.frame with
  | none => .next s
  | some x =>
    match x.role with
    | .transmitter f =>
      if s.inService && decide (x.cell ≤ cell.val + 1) && decide (sentLevel f (cell.val + 1) = .recessive) then
        .next (s.loseArbitration x (cell.val + 1))
      else .next s
    | .receiver => .next s
    | .collided _ => .next s

/-- The cell is one in which a level read other than the one sent is a collision: a byte cell of the frame, but not
a data cell of the precedence byte in which the station sends recessive (R66, R68). -/
def collides (f : Frame) (cell : Nat) : Bool :=
  decide (cell < 10 * frameLength f.body.code)
    && !(decide (1 ≤ cell ∧ cell ≤ 8) && decide (sentLevel f cell = .recessive))

/-- The VETO cell where the kind of a frame puts it: after the tail cell of the last check byte (R62). -/
def Frame.vetoCell (f : Frame) : Nat := 10 * frameLength f.body.code

/-- Between two cells of its frame a sender that met a collision comes to its VETO cell, which its own kind places; there
it drives its VETO (R68). -/
def Role.entersVeto (role : Role) (before now : Nat) : Bool :=
  match role with
  | .collided f => decide (before < f.vetoCell ∧ f.vetoCell ≤ now)
  | .receiver => false
  | .transmitter _ => false

/-- A VETO driven is counted where `b` holds (R68, R70, R188). -/
def State.countVeto (s : State) (b : Bool) : State :=
  s.mapCounters fun c => { c with vetosDriven := countIf b c.vetosDriven }

/-- COLLISION (R68): the transmitter stops driving the frame; it will drive VETO, and checks the frame as a receiver
does. -/
def execCollision (cell : Nat) (s : State) : Host.Outcome State Fault Refusal :=
  match s.line.frame with
  | none => .next s
  | some x =>
    match x.role with
    | .transmitter f =>
      if s.inService && decide (x.cell ≤ cell) && collides f cell then
        .next (s.mapLine fun l =>
          { l with frame := some { x.become cell (.collided f) with drive := some .veto } })
      else .next s
    | .receiver => .next s
    | .collided _ => .next s

/-! The line held (R71). -/

/-- The held run reaches 12: the frame is abandoned, an entry in flight returns to pending, and the event is
counted once for the run (R71). -/
def State.holdLine (s : State) : State :=
  ((s.mapLine fun l => { l with gap := 0, held := Config.heldLimit, frame := none }).mapOutbox Outbox.land).mapCounters
    fun c => { c with lineHeld := countUp c.lineHeld }

/-- LINE_HELD (R71), inside a frame or outside. A collided sender whose VETO cell has not come drives no VETO and counts
none (R71, log entry 16). -/
def execLineHeld (s : State) : Host.Outcome State Fault Refusal :=
  if s.inService && decide (s.line.held < Config.heldLimit) then .next s.holdLine else .next s

/-- LINE_HELD_END (R64, R71): the gap count is 0 and the station is framed; the recessive cell that ends the run is
the first cell of the gap, and the next event of the line counts it. -/
def execLineHeldEnd (s : State) : Host.Outcome State Fault Refusal :=
  if s.inService && decide (s.line.held = Config.heldLimit) then
    .next (s.mapLine fun l => { l with gap := 0, held := 0, framed := true, cellClock := 0 })
  else .next s

end Sys2Proof.Machine
end

