-- ==== Sys2Proof/Machine/FrameEnd.lean ====
section
/-!
DEFINITION. The end of a frame (spec/04, spec/05): the check and the verdict, and the outcome at the sender and at
the receivers. The commands FRAME_CHECKED, OWN_FRAME_OUTCOME and RECEIVED_FRAME_OUTCOME.
-/

namespace Sys2Proof.Machine

/-! The verdict (R86, R87). -/

/-- The receiver's entry for the sender makes it step every frame but a JOIN; the own number has no entry (R87). -/
def State.writtenOff (s : State) (n : StationNo) : Bool :=
  decide (n ≠ s.own) && decide (s.peerState n = .silent ∨ s.peerState n = .discord)

/-- The digests a presence roll carries equal the receiver's own; any other kind carries none to compare (R87, R88).
The list length is compared by no verdict (R129). -/
def State.digestsAgree (s : State) (b : Bulletin) : Bool :=
  match b with
  | .presenceRoll sd ld _ => sd == s.inUse.digest && ld == s.listDigest
  | _ => true

/-- The verdict of an ACTIVE receiver on a well-formed frame is AGREE (Table 5-1). -/
def State.agrees (s : State) (f : Frame) : Bool :=
  match f.body with
  | .join _ d => d == s.inUse.digest
  | b => !s.writtenOff f.sender && f.count == s.lineCount && s.digestsAgree b

/-- The verdict as a slot (Table 5-1). -/
def State.verdict (s : State) (f : Frame) : Slot := if s.agrees f then .agree else .step

/-! The check (R69, R70). -/

/-- The states in which a receiver drives VETO on a format error (Table 4-3). -/
def Station.drivesVeto : Station → Bool
  | .start => false
  | .uncommissioned _ => false
  | .listen _ => true
  | .joining _ => true
  | .active => true
  | .muted _ _ => false
  | .discord => false

/-- The slot the station drives after the check (Table 4-3): a collided transmitter drives VETO (R68). -/
def State.slotDriven (s : State) (role : Role) (heard : Heard) : Option Slot :=
  match role, heard with
  | .collided _, _ => some .veto
  | _, .formatError => if s.station.drivesVeto then some .veto else none
  | _, .wellFormed f => if s.isActive then some (s.verdict f) else none
  | _, .unchecked => none

/-- What a checked frame is. -/
def heardOf (r : Option Frame) : Heard :=
  match r with
  | some f => .wellFormed f
  | none => .formatError

/-- The cell that follows the byte cells read (R62); the idle clock may have taken a collided sender beyond it already. -/
def cellAfterCheck (x : InFrame) (cells : List Level) : Nat :=
  match x.role with
  | .collided _ => max x.cell (10 * bytesRead cells)
  | _ => 10 * bytesRead cells

/-- The check brings a VETO of this station: a receiver's follows its check (R70); a collided sender's stands where its
own kind puts it, which may be later (R68). -/
def vetoAtCheck (x : InFrame) (cells : List Level) (drive : Option Slot) : Bool :=
  match x.role with
  | .collided _ => x.role.entersVeto x.cell (cellAfterCheck x cells)
  | _ => decide (drive = some .veto)

/-- The check is recorded with the slot to drive; a VETO whose cell has come is counted (R68, R70, R188). DESIGN CHOICE
(log entry 21): where a format error leaves the held run at 11, the station's own VETO cell makes it 12; R70 counts that
VETO, and R71 drives no slot of an abandoned frame. It is counted here, and LINE_HELD keeps the count. -/
def State.recordCheck (s : State) (x : InFrame) (cells : List Level) : State :=
  let heard := heardOf (readFrame cells)
  let drive := s.slotDriven x.role heard
  (s.mapLine fun l =>
        { l with
          held := runAfter 0 cells
          frame := some { x with cell := cellAfterCheck x cells, heard := heard, drive := drive } }).countVeto
    (vetoAtCheck x cells drive)

/-- A well-formed frame is counted and handed to the presence unit (R70, R125); in LISTEN one that carries the own
number takes the station to DISCORD at once (R97). -/
def State.handOn (s : State) (f : Frame) : State :=
  let s1 :=
    (s.mapCounters fun c => { c with goodFrames := countUp c.goodFrames }).hear f
  match s.station with
  | .listen _ => if f.sender = s.own then s1.enterDiscord else s1
  | _ => s1

/-- The whole check of the byte cells read (R69, R70): the verdict is formed against the station as it stands, then
the frame is handed on. -/
def State.checkFrame (s : State) (x : InFrame) (cells : List Level) : State :=
  match readFrame cells with
  | none => s.recordCheck x cells
  | some f => (s.recordCheck x cells).handOn f

/-- The byte cells of the frame read, to its last check byte: a cell that was not given reads recessive, and cells
beyond are not the frame's (R62, R72). -/
def frameCellsRead (cells : List Level) : List Level := (List.range (10 * bytesRead cells)).map (cellAt cells)

/-- FRAME_CHECKED (R69): at a receiver, and at a transmitter that met a collision (R68); a transmitter still going
does not check its own frame (R70). A frame in which the held run reaches 12 was abandoned (R71). A timer's end that is
due comes first (log entry 20). -/
def execFrameChecked (cells : List Level) (s : State) : Host.Outcome State Fault Refusal :=
  match s.line.frame with
  | none => .next s
  | some x =>
    match x.role, x.heard with
    | .transmitter _, _ => .next s
    | _, .unchecked =>
      if s.inService && !runReaches 0 (frameCellsRead cells) then
        .next (judgeFault s (s.takeTimerEnd.checkFrame x (frameCellsRead cells)))
      else .next s
    | _, _ => .next s

/-! Leaving the frame. -/

/-- The VETO cell of a collided sender has not come yet (R68). -/
def InFrame.awaitsVeto (x : InFrame) : Bool :=
  match x.role with
  | .collided f => decide (x.cell < f.vetoCell)
  | .receiver => false
  | .transmitter _ => false

/-- The held run before the slots: what the check left where it ended there, or none known (R71). -/
def slotRun (l : Line) (x : InFrame) : Nat :=
  if x.awaitsVeto then 0
  else
    match x.heard with
    | .unchecked => 0
    | _ => l.held

/-- The end of the STEP cell: gap count 0, framed, outside a frame (R64). -/
def Line.endFrame (l : Line) (x : InFrame) (sl : Slots) : Line :=
  { l with gap := 0, held := runAfter (slotRun l x) (slotCells sl x.drive), framed := true, frame := none, cellClock := 0 }

/-- The held run reaches 12 within the slots: the frame is abandoned, and its event is LINE_HELD (R71). -/
def abandonedInSlots (l : Line) (x : InFrame) (sl : Slots) : Bool := runReaches (slotRun l x) (slotCells sl x.drive)

/-! The outcome at the sender (R74 to R78). -/

/-- Void (R75): a strike and a count; at 16 strikes the station enters MUTED, otherwise the entry is pending again. -/
def State.void (s : State) : State :=
  let s1 :=
    (s.mapLine fun l => { l with strikes := l.strikes + 1 }).mapCounters fun c =>
      { c with ownVoided := countUp c.ownVoided }
  if s.line.strikes + 1 < Config.strikeLimit then s1.mapOutbox Outbox.land else s1.enterMuted

/-- What every accepted outcome does first: a strike comes off (R76), the entry leaves (R59), and the quiet counter
becomes 0 (R129). -/
def State.creditAccepted (s : State) : State :=
  ((s.mapLine fun l => { l with strikes := l.strikes - 1 }).mapOutbox Outbox.depart).putQuiet 0

/-- Accepted, lone or not (R76, R77): a JOIN makes its sender admitted, or founder when lone. -/
def State.ownAccepted (s : State) (f : Frame) (lone : Bool) : State :=
  match f.body with
  | .join _ _ => if lone then s.creditAccepted.found else s.creditAccepted.becomeAdmitted
  | _ => s.creditAccepted.accept .sender f

/-- Stepped (R78): DISCORD for a JOIN (R95), JOINING with reason RESYNC for any other kind (R93). -/
def State.stepped (s : State) (f : Frame) : State :=
  match f.body with
  | .join _ _ => s.enterDiscord
  | _ => s.enterJoining .resync

/-- The sender's outcome from the slots it saw (Table 4-4). -/
def State.ownOutcome (s : State) (f : Frame) (x : Seen) : State :=
  if x.veto then s.void
  else if x.agree then s.ownAccepted f false
  else if x.step then s.stepped f
  else if s.hasActivePeer then s.void
  else s.ownAccepted f true

/-- The sender leaves its frame and takes the outcome. The VETO cell of a collided sender has come by the end of the STEP
cell, and its VETO is counted if it was not before (R68, R188). -/
def State.endOwnFrame (s : State) (x : InFrame) (f : Frame) (sl : Slots) : State :=
  ((s.mapLine fun l => l.endFrame x sl).countVeto x.awaitsVeto).ownOutcome f (slotsSeen sl x.drive)

/-- OWN_FRAME_OUTCOME (R74): at the end of the STEP cell of the station's own frame. -/
def execOwnFrameOutcome (slots : Slots) (s : State) : Host.Outcome State Fault Refusal :=
  match s.line.frame with
  | none => .next s
  | some x =>
    match x.role with
    | .receiver => .next s
    | .transmitter f =>
      if s.inService && !abandonedInSlots s.line x slots then .next (judgeFault s (s.endOwnFrame x f slots))
      else .next s
    | .collided f =>
      if s.inService && !abandonedInSlots s.line x slots then .next (judgeFault s (s.endOwnFrame x f slots))
      else .next s

/-! The outcome at the receivers (R89 to R97). -/

/-- An ACTIVE receiver on a well-formed frame (R89, R90, R93, R94): by the slot it drove. -/
def State.activeOutcome (s : State) (f : Frame) (drive : Option Slot) (x : Seen) : State :=
  match drive with
  | some .agree => if x.accepted then s.accept .agreed f else s
  | some .step =>
    if f.isJoin then
      (if x.veto then s else if x.agree then s.accept .steppedJoin f else s.setPeer f.sender .discord)
    else if x.accepted then s.enterJoining .resync
    else s
  | _ => s

/-- A MUTED station whose step-lost flag is no, at an accepted frame (R91). -/
def State.mutedOutcome (s : State) (timer : Nat) (heard : Heard) : State :=
  match heard with
  | .wellFormed f => if s.inStep f then s.accept .muted f else s.putStation (.muted timer true)
  | _ => s.putStation (.muted timer true)

/-- An admitted joiner: the first roll addressed to it, accepted on the line or with no slot seen (R92, R110). -/
def State.admittedOutcome (s : State) (f : Frame) (x : Seen) : State :=
  match f.body with
  | .transferRoll r => if r.target = s.own && (x.accepted || x.silent) then s.takeFirstRoll f r else s
  | _ => s

/-- A filling joiner on a well-formed frame (R92): in step it accepts, out of step it resyncs at an accepted frame
and does nothing at one with no slot seen. -/
def State.fillingOutcome (s : State) (f : Frame) (x : Seen) : State :=
  if x.accepted || x.silent then
    (if s.inStep f then s.acceptFilling f else if x.accepted then s.enterJoining .resync else s)
  else s

/-- A well-formed frame that carries the station's own number and that it did not transmit (R97). -/
def State.duplicate (s : State) (heard : Heard) : Bool :=
  match heard with
  | .wellFormed f => decide (f.sender = s.own)
  | _ => false

/-- What a receiver does at the end of a frame, by its state (Table 5-2), when no duplicate number is found. -/
def State.receiverOutcome (s : State) (heard : Heard) (drive : Option Slot) (x : Seen) : State :=
  match s.station, heard with
  | .active, .wellFormed f => s.activeOutcome f drive x
  | .muted timer false, _ => if x.accepted then s.mutedOutcome timer heard else s
  | .joining (.admitted _), .wellFormed f => s.admittedOutcome f x
  | .joining (.filling _), .wellFormed f => s.fillingOutcome f x
  | _, _ => s

/-- The states in which a duplicate number is acted on at the end of the STEP cell (R97). -/
def Station.findsDuplicate : Station → Bool
  | .joining _ => true
  | .active => true
  | .muted _ _ => true
  | _ => false

/-- The receiver leaves the frame and acts on the slots (R89); an accepted frame that carries its own number takes
it to DISCORD and is not accepted (R97). -/
def State.endReceivedFrame (s : State) (x : InFrame) (sl : Slots) : State :=
  let seen := slotsSeen sl x.drive
  let s1 := s.mapLine fun l => l.endFrame x sl
  if s.duplicate x.heard && seen.accepted && s.station.findsDuplicate then s1.enterDiscord
  else s1.receiverOutcome x.heard x.drive seen

/-- RECEIVED_FRAME_OUTCOME (R89): at the end of the STEP cell of a frame the station received and checked. A timer's end
that is due comes first, so that a roll after a joiner's fourth boundary is not taken (R117, log entry 20). -/
def execReceivedFrameOutcome (slots : Slots) (s : State) : Host.Outcome State Fault Refusal :=
  match s.line.frame with
  | none => .next s
  | some x =>
    match x.role, x.heard with
    | .receiver, .unchecked => .next s
    | .receiver, _ =>
      if s.inService && !abandonedInSlots s.line x slots then .next (judgeFault s (s.takeTimerEnd.endReceivedFrame x slots))
      else .next s
    | _, _ => .next s

end Sys2Proof.Machine
end

