-- ==== Sys2Proof/Machine/Panel.lean ====
section
/-!
DEFINITION. The panel unit (spec/09, and R33 to R40): buttons and presses, lamps, HORN, CHIME, COMMON, FAULT and
TEST, and the commands BUTTON_DEBOUNCED_CHANGE and FLASH_PHASE_ADVANCE.
-/

namespace Sys2Proof.Machine

/-! Buttons (R149 to R151). -/

/-- The entry of a button (R149). -/
def Buttons.get (b : Buttons) : Button → ButtonEntry
  | .ack => b.ack
  | .silence => b.silence
  | .clear => b.clear
  | .test => b.test

/-- Writes the entry of a button. -/
def Buttons.put (b : Buttons) (x : Button) (e : ButtonEntry) : Buttons :=
  match x with
  | .ack => { b with ack := e }
  | .silence => { b with silence := e }
  | .clear => { b with clear := e }
  | .test => { b with test := e }

/-- One sample of a button, with the fixed debounce count of 8 (R150); the change is due at the sample that
completes the run, as for a point. -/
def ButtonEntry.sample (e : ButtonEntry) (pressed : Bool) : ButtonEntry :=
  if e.due then e
  else if pressed = e.pressed then { e with run := 0 }
  else if e.run + 1 < Config.buttonDebounce then { e with run := e.run + 1 }
  else { e with run := 0, due := true }

/-- The four buttons are read at the same tick (R150). -/
def sampleButtons (levels : BitVec 4) (b : Buttons) : Buttons :=
  { ack := b.ack.sample (pressedSample (levels.getLsbD (buttonIndex .ack)))
    silence := b.silence.sample (pressedSample (levels.getLsbD (buttonIndex .silence)))
    clear := b.clear.sample (pressedSample (levels.getLsbD (buttonIndex .clear)))
    test := b.test.sample (pressedSample (levels.getLsbD (buttonIndex .test))) }

/-- The level changes and the run count becomes 0 (R150). -/
def ButtonEntry.change (e : ButtonEntry) : ButtonEntry := { run := 0, pressed := !e.pressed, due := false }

/-- The group action of a button; TEST has none (R151). -/
def actionOf : Button → Option GroupKind
  | .ack => some .ack
  | .silence => some .silence
  | .clear => some .clear
  | .test => none

/-- A press: an offer of the kind while the station is ACTIVE with coverage not empty, else discarded (R151). -/
def State.press (s : State) (k : GroupKind) : State :=
  s.offer fun o => if s.inUse.coverage = 0 then o else o.groupOffer k

/-- A debounced change of a button; a change to PRESSED of ACK, SILENCE or CLEAR is a press (R150, R151). -/
def State.changeButton (s : State) (b : Button) : State :=
  let e := (s.buttons.get b).change
  let s1 := { s with buttons := s.buttons.put b e }
  match actionOf b with
  | some k => if e.pressed then s1.press k else s1
  | none => s1

/-- BUTTON_DEBOUNCED_CHANGE (R150): at the sample tick at which the run completed. -/
def execButtonDebouncedChange (b : Button) (s : State) : Host.Outcome State Fault Refusal :=
  if s.inService && (s.buttons.get b).due then .next (s.changeButton b) else .next s

/-! Lamps (R33, R34, R154 to R157). -/

/-- The flash phase advances, from 7 back to 0 (R155); base ticks counted beyond the 125th belong to the next advance
(R173). -/
def Timebase.advanceFlash (t : Timebase) : Timebase :=
  { t with flashTicks := t.flashTicks - Config.ticksPerFlash, flashPhase := t.flashPhase + 1 }

/-- FLASH_PHASE_ADVANCE (R155, R173): in every state from the end of the reset. -/
def execFlashPhaseAdvance (s : State) : Host.Outcome State Fault Refusal :=
  if s.running then .next { s with timebase := s.timebase.advanceFlash } else .next s

/-- The pattern of a record (Table 2-9). -/
def recordPattern (r : Option Record) : Pattern :=
  match r with
  | none => .off
  | some x =>
    match x.state with
    | .alert => .fast
    | .lapsed => .fast
    | .held => if x.firstOut then .wink else .steady
    | .settled => .slow

/-- The point a lamp is mapped to; none when it is unmapped, or while no settings are in use (R154). -/
def State.window (s : State) (n : Lamp) : Option PointId :=
  match s.settings with
  | none => none
  | some c => let v := (c.windows[n]).toNat; if h : v < 288 then some ⟨v, h⟩ else none

/-- TEST is held (R157). -/
def State.testHeld (s : State) : Bool := s.buttons.test.pressed

/-- The pattern a lamp shows (R33, R34, R154, R157). -/
def State.lampPattern (s : State) (n : Lamp) : Pattern :=
  if s.testHeld then .steady
  else
    match s.window n with
    | none => .off
    | some p => recordPattern (findRecord s.annList.records p)

/-- The level of a pattern at a flash phase (Table 9-1). -/
def Pattern.onAt (p : Pattern) (phase : Fin 8) : Bool :=
  match p with
  | .off => false
  | .steady => true
  | .fast => phase.val % 2 == 0
  | .slow => decide (phase.val < 4)
  | .wink => decide (phase.val < 7)

/-- A lamp's output (R155, R156); nothing is driven without supply. -/
def State.lampOn (s : State) (n : Lamp) : Bool :=
  decide (s.power ≠ .off) && (s.lampPattern n).onAt s.timebase.flashPhase

/-! HORN, CHIME, COMMON, FAULT (R35 to R38, R158, R159). -/

/-- The record's group is in the station's coverage. -/
def State.covered (s : State) (r : Record) : Bool := inMask s.inUse.coverage r.group

/-- ALERT or LAPSED: not acknowledged (Table 2-1). -/
def Record.unacknowledged (r : Record) : Bool := decide (r.state = .alert ∨ r.state = .lapsed)

/-- HORN (R35). -/
def State.horn (s : State) : Bool :=
  s.annList.records.any fun r => s.covered r && r.unacknowledged && !r.silenced

/-- CHIME (R36). -/
def State.chime (s : State) : Bool :=
  s.annList.records.any fun r =>
    s.covered r && (s.options r.group).ringback && decide (r.state = .settled) && !r.silenced

/-- COMMON (R37). -/
def State.common (s : State) : Bool := s.annList.records.any fun r => s.covered r && r.unacknowledged

/-- The FAULT output (R159); it is on while a reset lasts (R161, R175). -/
def State.faultOutput (s : State) : Bool := decide (s.power ≠ .off) && s.faultOn

end Sys2Proof.Machine
end

