-- ==== Sys2Proof/Machine/Resets.lean ====
section
/-!
DEFINITION. The resets (spec/10, R175) and the reading of the store at START (R164). The commands POWER_ON,
SUPPLY_LOST, PIN_RESET and RESET_END.
-/

namespace Sys2Proof.Machine

/-- A selection under way when a reset begins is abandoned and not served (R179). -/
def Selection.abandoned : Selection → Selection
  | .idle => .idle
  | .served => .unserved
  | .unserved => .unserved

/-- Every block at its reset values (Table 10-2). The store (R162), the diagnostic counters (R175), the input pins,
the last recorded cause and the waiting commands stay; the latches are clear while the reset lasts (R183). DESIGN CHOICE
(log entry 24): R10, R18 and R175 give these values at the reset's end, on entry to START; the model takes them when a
power-on or pin reset begins, and holds them while it lasts. SUPPLY_LOST takes them too (log entry 17). -/
def State.blocksReset (s : State) : State :=
  { power := s.power
    station := .start
    lineCount := 0
    annList := AnnList.reset
    outbox := Outbox.reset
    line := Line.reset
    presence := Presence.reset
    points := Vector.replicate 8 Point.reset
    buttons := Buttons.reset
    settings := none
    store := s.store
    session := Session.reset
    timebase := Timebase.reset
    port :=
      { slot := noneResponse, shifted := [], selection := s.port.selection.abandoned, latches := Latches.clear,
        counters := s.port.counters, cause := s.port.cause }
    pins := s.pins
    pending := s.pending }

/-- The reading of the store at the entry to START (R164): a store that passes is in use and the start hold begins;
one that fails takes the station to UNCOMMISSIONED with the cause. -/
def State.readStore (s : State) : State :=
  match storeVerdict s.store with
  | none => { s with station := .start, settings := some (settingsOf s.store) }
  | some c => { s with station := .uncommissioned c, settings := none }

/-- The end of a reset of a kind: every block at its reset values, the cause recorded, STATE_CHANGED set, and START
entered with the reading of the store (R175, R176). -/
def State.startUp (s : State) (kind : ResetKind) : State :=
  let s1 := s.blocksReset
  ({ s1 with
      power := .running
      port := { s1.port with latches := Latches.reset, cause := kind } }).readStore

/-- POWER_ON (R175): a power-on reset begins; the diagnostic counters are cleared. -/
def execPowerOn (s : State) : Host.Outcome State Fault Refusal :=
  let s1 := s.blocksReset
  .next { s1 with power := .inReset .powerOn, port := { s1.port with counters := Counters.zero } }

/-- SUPPLY_LOST (R172): the station stops; nothing but the store outlives it, and a burn in progress leaves its cell
unchanged. The counters go at the power-on that follows. -/
def execSupplyLost (s : State) : Host.Outcome State Fault Refusal :=
  let s1 := s.blocksReset
  .next { s1 with power := .off }

/-- PIN_RESET (R175): a pin reset begins while supply is present and no reset lasts; held low through a power-on it
is part of that one reset. -/
def execPinReset (s : State) : Host.Outcome State Fault Refusal :=
  if s.running then
    let s1 := s.blocksReset
    .next { s1 with power := .inReset .pin }
  else .next s

/-- RESET_END (R175): the reset in progress ends. -/
def execResetEnd (s : State) : Host.Outcome State Fault Refusal :=
  match s.power with
  | .inReset kind => .next (s.startUp kind)
  | .off => .next s
  | .running => .next s

end Sys2Proof.Machine
end

