-- ==== Sys2Proof/Machine/Port.lean ====
section
/-!
DEFINITION. The service port (spec/11): selections, the response slot, and the requests that read the station, press,
acknowledge, clear and restart. The commands SEL_FALLING_EDGE, TRUNCATED_SELECTION, UNKNOWN_REQUEST, STATUS,
ACKNOWLEDGE, LIST, PRESENCE, POINTS, COUNTERS, CLEAR_COUNTERS, PRESS, SETTINGS and RESTART.
-/

namespace Sys2Proof.Machine

/-! Selections and the response slot (R178, R179). -/

/-- The response to a request: status, code, fields (R195). -/
def responseBytes (status : Status) (code : Byte) (fields : List Byte) : List Byte := status.byte :: code :: fields

/-- The selection ends and the slot is filled. The selection has shifted out the slot's former contents, from its
falling edge (R179). -/
def Port.refill (p : Port) (bytes : List Byte) : Port :=
  { p with
    shifted := if p.selection = .served then p.shifted else p.slot
    slot := bytes
    selection := .idle }

/-- Answers the request of the selection that ends (R179). -/
def State.respond (s : State) (status : Status) (code : Byte) (fields : List Byte) : State :=
  { s with port := s.port.refill (responseBytes status code fields) }

/-- The selection is not served: its falling edge came before the end of a reset, or a reset lasts (R175, R179). -/
def State.notServed (s : State) : Bool := !s.running || decide (s.port.selection = .unserved)

/-- A selection that was not served ends; nothing of it is taken (R179). -/
def State.endUnserved (s : State) : State := { s with port := { s.port with selection := .idle } }

/-- A selection begins: served, shifting out the slot, or while a reset lasts not served (R179). -/
def State.beginSelection (s : State) : State :=
  { s with
    port :=
      { s.port with
        selection := if s.running then .served else .unserved
        shifted := if s.running then s.port.slot else s.port.shifted } }

/-- A burn is running (R167). -/
def State.sessionBurning (s : State) : Bool := decide (s.session.phase = .burning)

/-- Taking a request (R178, R181): not in a selection that is not served, and answered BUSY while a burn runs. -/
def State.request (s : State) (code : Byte) (take : State → State) : State :=
  if s.notServed then s.endUnserved
  else if s.sessionBurning then s.respond .busy code []
  else take s

/-- SEL_FALLING_EDGE (R178, R179): a selection begins and shifts out the slot; one that begins before the end of a
reset is not served. A selection that is not served may have ended without a command, so that the next falling edge begins
a selection of its own (log entry 6). -/
def execSelFallingEdge (s : State) : Host.Outcome State Fault Refusal :=
  match s.port.selection with
  | .served => .next s
  | .idle => .next s.beginSelection
  | .unserved => .next s.beginSelection

/-- The byte a selection shifts out at a place: the response, then fill bytes (R179, R195). -/
def Port.byteOut (p : Port) (i : Nat) : Byte := p.shifted.getD i Config.fillByte

/-- The bit a selection shifts out at a place, counted from its falling edge: the bytes in order, each most significant
bit first (R178). -/
def Port.bitOut (p : Port) (i : Nat) : Bool := (p.byteOut (i / 8)).getLsbD (7 - i % 8)

/-- SDO in a selection after so many falling edges of SCK; none while SDO is high-impedance (R178). -/
def State.sdoBit (s : State) (i : Nat) : Option Bool :=
  if s.running ∧ s.port.selection = .served then some (s.port.bitOut i) else none

/-- The first bit on SDO of a served selection, presented at its falling edge (R178). -/
def State.sdoFirstBit (s : State) : Option Bool := s.sdoBit 0

/-- TRUNCATED_SELECTION (R180): it is no taken request, so a running burn does not make it BUSY. -/
def execTruncatedSelection (code : Option Byte) (s : State) : Host.Outcome State Fault Refusal :=
  if s.notServed then .next s.endUnserved
  else
    match code with
    | none => .next (s.respond .truncated 0 [])
    | some c =>
      if (Instr.truncatedSelection (some c)).wellFormed then .next (s.respond .truncated c []) else .next s

/-- UNKNOWN_REQUEST (R178): an undefined code is taken and answered UNKNOWN. -/
def execUnknownRequest (code : Byte) (s : State) : Host.Outcome State Fault Refusal :=
  if (Instr.unknownRequest code).wellFormed then .next (s.request code fun x => x.respond .unknown code [])
  else .next s

/-! STATUS (R182). -/

/-- The state's code (Table 12-5). -/
def Station.code : Station → Byte
  | .start => 0
  | .uncommissioned _ => 1
  | .listen _ => 2
  | .joining _ => 3
  | .active => 4
  | .muted _ _ => 5
  | .discord => 6

/-- The phase's code, 0 outside JOINING (Table 12-5). -/
def Station.phaseCode : Station → Byte
  | .joining .asking => 1
  | .joining (.admitted _) => 2
  | .joining (.filling _) => 3
  | _ => 0

/-- The uncommissioned cause's code, 0 outside UNCOMMISSIONED (Table 12-5). -/
def Station.causeCode : Station → Byte
  | .uncommissioned .blank => 1
  | .uncommissioned .check => 2
  | .uncommissioned .format => 3
  | _ => 0

/-- The reset cause's code (Table 12-5). -/
def ResetKind.code : ResetKind → Byte
  | .powerOn => 1
  | .pin => 2
  | .restart => 3

/-- The session's code (Table 12-5). -/
def SessionPhase.code : SessionPhase → Nat
  | .closed => 0
  | .opened => 1
  | .burning => 2

/-- The last burn's code (Table 12-5). -/
def BurnResult.code : BurnResult → Nat
  | .none => 0
  | .done => 1
  | .failed => 2

/-- The latch byte (R195). -/
def Latches.byte (l : Latches) : Byte :=
  BitVec.ofNat 8 (bit l.listChanged + bit l.presenceChanged * 2 + bit l.stateChanged * 4 + bit l.fault * 8)

/-- The flags byte of STATUS (Table 12-5). DESIGN CHOICE (log entry 25): bits 7 to 5, of which the table says nothing, are
0. -/
def State.flagsByte (s : State) : Byte :=
  BitVec.ofNat 8 (bit s.annList.overflow + s.session.phase.code * 2 + s.session.lastBurn.code * 8)

/-- The fields of STATUS, in the order of Table 12-5. -/
def State.statusFields (s : State) : List Byte :=
  [s.station.code, s.station.phaseCode, s.station.causeCode, s.port.cause.code, BitVec.ofNat 8 s.line.strikes,
    s.lineCount, BitVec.ofNat 8 s.annList.records.length, s.port.latches.byte, s.flagsByte]

/-- STATUS (R182): taken in every state, during a burn as well. -/
def execStatus (s : State) : Host.Outcome State Fault Refusal :=
  if s.notServed then .next s.endUnserved else .next (s.respond .ok 0x01 s.statusFields)

/-! ACKNOWLEDGE (R184). -/

/-- Clears the latches the mask names (R184, R195). -/
def Latches.acknowledge (l : Latches) (mask : Byte) : Latches :=
  { listChanged := l.listChanged && !mask.getLsbD 0
    presenceChanged := l.presenceChanged && !mask.getLsbD 1
    stateChanged := l.stateChanged && !mask.getLsbD 2
    fault := l.fault && !mask.getLsbD 3 }

/-- The latches as they stood are returned, then those named are cleared (R184). -/
def State.acknowledged (s : State) (mask : Byte) : State :=
  let s1 := s.respond .ok 0x02 [s.port.latches.byte]
  { s1 with port := { s1.port with latches := s1.port.latches.acknowledge mask } }

/-- ACKNOWLEDGE (R184). -/
def execAcknowledge (mask : Byte) (s : State) : Host.Outcome State Fault Refusal :=
  .next (s.request 0x02 fun x => x.acknowledged mask)

/-! LIST (R185). -/

/-- The fields of a page: line count, number of records, more flag, record words (Table 12-5). -/
def pageFields (count : Byte) (rs : List Record) : List Byte :=
  let page := rs.take Config.pageSize
  [count, BitVec.ofNat 8 page.length, BitVec.ofNat 8 (bit (decide (Config.pageSize < rs.length)))]
    ++ page.flatMap fun r => halfBytes (recordWord r)

/-- The records after the record of a point. -/
def recordsAfter (p : PointId) (rs : List Record) : List Record := (rs.dropWhile fun r => r.id != p).drop 1

/-- LIST as judged: 0xFFFF reads from the head, any other operand after that point id (R185, R195). A RANGE response
carries the line count. -/
def State.listJudged (s : State) (operand : Half) : State :=
  if operand = 0xFFFF then s.respond .ok 0x03 (pageFields s.lineCount s.annList.records)
  else if h : operand.toNat < 288 then
    (if holds s.annList.records ⟨operand.toNat, h⟩ then
      s.respond .ok 0x03 (pageFields s.lineCount (recordsAfter ⟨operand.toNat, h⟩ s.annList.records))
    else s.respond .range 0x03 [s.lineCount])
  else s.respond .range 0x03 [s.lineCount]

/-- LIST (R185): every LIST response carries the line count, BUSY included (R195, log entry 14). -/
def execList (operand : Half) (s : State) : Host.Outcome State Fault Refusal :=
  if s.notServed then .next s.endUnserved
  else if s.sessionBurning then .next (s.respond .busy 0x03 [s.lineCount])
  else .next (s.listJudged operand)

/-! PRESENCE, POINTS, COUNTERS (R186 to R189). -/

/-- A presence entry's code (Table 12-5). -/
def PeerState.code : PeerState → Byte
  | .absent => 0
  | .joining => 1
  | .active => 2
  | .silent => 3
  | .discord => 4

/-- The byte of a station number in the PRESENCE response: the own place holds 0x80 and the station's own state
while settings are in use; with none in use all places are ABSENT (R186, R195). -/
def State.presenceByte (s : State) (n : StationNo) : Byte :=
  match s.settings with
  | none => 0
  | some c => if n = c.number then 0x80 + s.station.code else (s.peerState n).code

/-- The 32 bytes of the PRESENCE response (R186). -/
def State.presenceFields (s : State) : List Byte := (List.finRange 32).map s.presenceByte

/-- PRESENCE (R186). -/
def execPresence (s : State) : Host.Outcome State Fault Refusal :=
  .next (s.request 0x04 fun x => x.respond .ok 0x04 x.presenceFields)

/-- The state byte of a point (Table 12-5). DESIGN CHOICE (log entry 25): bits 7 to 3, of which the table says nothing, are
0. -/
def Point.byte (p : Point) : Byte := BitVec.ofNat 8 (bit p.abnormal + bit p.caught * 2 + bit p.waiting * 4)

/-- The 16 bytes of the POINTS response: settings byte and state byte of each point (R187). -/
def State.pointFields (s : State) : List Byte :=
  (List.finRange 8).flatMap fun p => [pointSettingsByte s.inUse.points[p], (s.points[p]).byte]

/-- POINTS (R187). -/
def execPoints (s : State) : Host.Outcome State Fault Refusal :=
  .next (s.request 0x05 fun x => x.respond .ok 0x05 x.pointFields)

/-- The counters in the order of Table 11-4. -/
def Counters.toList (c : Counters) : List Half :=
  [c.goodFrames, c.vetosDriven, c.ownVoided, c.resyncs, c.mutes, c.lineHeld, c.overflowRefusals]

/-- COUNTERS (R189): reading does not change them. -/
def execCounters (s : State) : Host.Outcome State Fault Refusal :=
  .next (s.request 0x06 fun x => x.respond .ok 0x06 (x.port.counters.toList.flatMap halfBytes))

/-- CLEAR_COUNTERS (R189). -/
def execClearCounters (s : State) : Host.Outcome State Fault Refusal :=
  .next (s.request 0x07 fun x => (x.mapCounters fun _ => Counters.zero).respond .ok 0x07 [])

/-! PRESS (R190). -/

/-- The action a PRESS names; none when undefined (R195). -/
def pressKind (button : Byte) : Option GroupKind :=
  match button.toNat with
  | 1 => some .ack
  | 2 => some .silence
  | 3 => some .clear
  | _ => none

/-- PRESS as judged: it enters the panel's press path (R151, R190). -/
def State.pressJudged (s : State) (button : Byte) : State :=
  match pressKind button with
  | none => s.respond .range 0x08 []
  | some k => if s.isActive then (s.press k).respond .ok 0x08 [] else s.respond .refused 0x08 []

/-- PRESS (R190). -/
def execPress (button : Byte) (s : State) : Host.Outcome State Fault Refusal :=
  .next (s.request 0x08 fun x => x.pressJudged button)

/-! SETTINGS and RESTART (R191, R192). -/

/-- SETTINGS as judged: the burned value as it stands in the store (R191). -/
def State.settingsJudged (s : State) (cell : Byte) : State :=
  if h : cell.toNat < 26 then s.respond .ok 0x09 [s.store[cell.toNat]] else s.respond .range 0x09 []

/-- SETTINGS (R191). -/
def execSettings (cell : Byte) (s : State) : Host.Outcome State Fault Refusal :=
  .next (s.request 0x09 fun x => x.settingsJudged cell)

/-- RESTART (R192): a restart reset that begins and ends here, at the end of its selection. -/
def execRestart (s : State) : Host.Outcome State Fault Refusal :=
  .next (s.request 0x1F fun x => x.endUnserved.startUp .restart)

end Sys2Proof.Machine
end

