-- ==== Sys2Proof/Machine/Store.lean ====
section
/-!
DEFINITION. The programming session of the settings store (spec/10, R167 to R172): the commands OPEN, STAGE, BURN,
CLOSE, BURN_COMPLETION and VPP_LOST.
-/

namespace Sys2Proof.Machine

/-- Changes the programming session. -/
def State.mapSession (s : State) (f : Session → Session) : State := { s with session := f s.session }

/-- The VPP pin as sensed. -/
def State.senseVpp (s : State) (present : Bool) : State := { s with pins := { s.pins with vpp := present } }

/-- The station is UNCOMMISSIONED: where programming requests are taken (R167). -/
def Station.programmable : Station → Bool
  | .uncommissioned _ => true
  | _ => false

/-- A programming request outside UNCOMMISSIONED is answered REFUSED and changes nothing (R167). -/
def State.programming (s : State) (code : Byte) (take : State → State) : State :=
  if s.station.programmable then take s else s.respond .refused code []

/-- OPEN as judged (R168). -/
def State.openJudged (s : State) : State :=
  if isCommissioned s.store then s.respond .frozen 0x10 []
  else if !s.pins.vpp then s.respond .refused 0x10 []
  else
    (s.mapSession fun x =>
      match x.phase with
      | .closed => { x with phase := .opened, staged := none }
      | .opened => x
      | .burning => x).respond .ok 0x10 []

/-- OPEN (R168), with VPP as sensed at its taking. DESIGN CHOICE (log entry 23): the level is sensed whatever the answer,
and a level of absent that comes with an OPEN answered BUSY leaves a running burn alone, which `execVppLost` alone ends
for want of VPP (R172). -/
def execOpenSession (vpp : Bool) (s : State) : Host.Outcome State Fault Refusal :=
  .next ((s.senseVpp vpp).request 0x10 fun x => x.programming 0x10 State.openJudged)

/-- STAGE as judged: NOT_OPEN before RANGE (R169). -/
def State.stageJudged (s : State) (cell value : Byte) : State :=
  if s.session.phase = .closed then s.respond .notOpen 0x11 []
  else if h : cell.toNat < 26 then
    (s.mapSession fun x => { x with staged := some (⟨cell.toNat, h⟩, value) }).respond .ok 0x11 []
  else s.respond .range 0x11 []

/-- STAGE (R169). -/
def execStage (cell value : Byte) (s : State) : Host.Outcome State Fault Refusal :=
  .next (s.request 0x11 fun x => x.programming 0x11 fun y => y.stageJudged cell value)

/-- A burn that fails: the cell is unchanged, the last burn is FAILED, the session is CLOSED and the staged pair is
dropped (R170, R172). -/
def Session.fail (_ : Session) : Session := { phase := .closed, staged := none, lastBurn := .failed }

/-- BURN as judged (R170). -/
def State.burnJudged (s : State) : State :=
  if s.session.phase = .closed then s.respond .notOpen 0x12 []
  else if s.session.staged.isNone then s.respond .refused 0x12 []
  else if !s.pins.vpp then (s.mapSession Session.fail).respond .burnFailed 0x12 []
  else
    ({ s.mapSession fun x => { x with phase := .burning } with
        timebase := { s.timebase with burnClocks := 0 } }).respond .ok 0x12 []

/-- BURN (R170), with VPP as sensed at its taking. DESIGN CHOICE (log entry 23): the level is sensed whatever the answer,
and a level of absent that comes with a BURN answered BUSY leaves a running burn alone, which `execVppLost` alone ends
for want of VPP (R172). -/
def execBurn (vpp : Bool) (s : State) : Host.Outcome State Fault Refusal :=
  .next ((s.senseVpp vpp).request 0x12 fun x => x.programming 0x12 State.burnJudged)

/-- CLOSE (R171). -/
def execClose (s : State) : Host.Outcome State Fault Refusal :=
  .next (s.request 0x13 fun x =>
    x.programming 0x13 fun y =>
      (y.mapSession fun z => { z with phase := .closed, staged := none }).respond .ok 0x13 [])

/-- The store with a staged pair burned in: old value ORed with staged value (R162, R170). -/
def burnIn (cells : Vector Byte 26) (staged : Option (CellNo × Byte)) : Vector Byte 26 :=
  match staged with
  | none => cells
  | some (c, v) => update cells c fun old => old ||| v

/-- The burn is complete: the session is OPEN again, or CLOSED once the store is commissioned (R170). -/
def State.completeBurn (s : State) : State :=
  let cells := burnIn s.store s.session.staged
  { s with
    store := cells
    session :=
      { phase := if isCommissioned cells then .closed else .opened, staged := none, lastBurn := .done }
    timebase := { s.timebase with burnClocks := 0 } }

/-- A burn is running. -/
def State.burning (s : State) : Bool := s.running && decide (s.session.phase = .burning)

/-- BURN_COMPLETION (R170): 4 ms after the request. -/
def execBurnCompletion (s : State) : Host.Outcome State Fault Refusal :=
  if s.burning then .next s.completeBurn else .next s

/-- VPP_LOST (R172): a running burn fails at once; with no burn running the session is unchanged. -/
def execVppLost (s : State) : Host.Outcome State Fault Refusal :=
  if s.burning then
    .next { (s.senseVpp false).mapSession Session.fail with timebase := { s.timebase with burnClocks := 0 } }
  else .next (s.senseVpp false)

end Sys2Proof.Machine
end

