-- ==== Sys2Proof/Machine/Timebase.lean ====
section
/-!
DEFINITION. The timebase and what it paces (spec/10, R173, R174, R176, R177): the commands SAMPLE_TICK,
ROLL_INTERVAL_BOUNDARY, START_HOLD_END, LISTEN_END, TRANSFER_TIMEOUT and MUTED_TIMER_EXPIRY.
A commanded tick says that its period has run out (log entry 2).
-/

namespace Sys2Proof.Machine

/-- The sample tick is a base tick, and the next base tick is none (R173). -/
def Timebase.sampled (t : Timebase) : Timebase := { t with clock := 0, sampleNext := false }

/-- Base ticks pass: every count that runs in the state takes them, the flash phase's in every state (R173), the roll
interval's in service (R174), the start hold's in START (R176). What a count then makes due is taken by its own event. -/
def State.countTicks (s : State) (n : Nat) : State :=
  { s with
    timebase :=
      { s.timebase with
        flashTicks := s.timebase.flashTicks + n
        rollTicks := if s.inService then s.timebase.rollTicks + n else s.timebase.rollTicks
        holdTicks := if s.station = .start then s.timebase.holdTicks + n else s.timebase.holdTicks } }

/-- The base ticks that a sample tick completes: it is every second base tick (R173), so the one before it passes with it
unless the idle clock has counted that one already. -/
def Timebase.ticksToSample (t : Timebase) : Nat := if t.sampleNext then 1 else 2

/-- The inputs are sampled in the states in service (R134, R135, R149, R150). -/
def State.sample (s : State) (fields : BitVec 8) (buttons : BitVec 4) : State :=
  { s with
    pins := { s.pins with fields := fields, buttons := buttons }
    points := if s.inService then samplePoints s.inUse fields s.points else s.points
    buttons := if s.inService then sampleButtons buttons s.buttons else s.buttons }

/-- A sample tick: a base tick at which the inputs are sampled (R173). -/
def State.sampleTick (s : State) (fields : BitVec 8) (buttons : BitVec 4) : State :=
  { s with timebase := s.timebase.sampled }.sample fields buttons

/-- SAMPLE_TICK (R135, R150, R173): the tick falls in every state out of reset, and the inputs are sampled in the
states in service. It is a base tick, so the counts of base ticks take it (log entry 2). -/
def execSampleTick (fields : BitVec 8) (buttons : BitVec 4) (s : State) : Host.Outcome State Fault Refusal :=
  if s.running then .next ((s.sampleTick fields buttons).countTicks s.timebase.ticksToSample) else .next s

/-- The counts inside the station state at a boundary: LISTEN's boundaries (R177), the transfer timer of an admitted
or filling joiner (R115) and the MUTED timer (R81), each stopping at its limit. -/
def Station.boundary : Station → Station
  | .start => .start
  | .uncommissioned c => .uncommissioned c
  | .listen n => .listen (min Config.listenLimit (n + 1))
  | .joining .asking => .joining .asking
  | .joining (.admitted t) => .joining (.admitted (min Config.transferLimit (t + 1)))
  | .joining (.filling t) => .joining (.filling (min Config.transferLimit (t + 1)))
  | .active => .active
  | .muted t lost => .muted (min Config.mutedLimit (t + 1)) lost
  | .discord => .discord

/-- A roll-interval boundary is counted by every mechanism that counts roll intervals; base ticks counted beyond it
belong to the next interval (R174). DESIGN CHOICE (log entry 22): in MUTED with step lost the silence counters go on
being counted here (R127), where R91 says that the presence table stays as it was. -/
def State.boundary (s : State) : State :=
  { s with
    station := s.station.boundary
    presence := s.presence.boundary s.isActive
    timebase := { s.timebase with rollTicks := s.timebase.rollTicks - s.inUse.rollTicks } }

/-- ROLL_INTERVAL_BOUNDARY (R174): in the states in service; none falls in START or UNCOMMISSIONED. -/
def execRollIntervalBoundary (s : State) : Host.Outcome State Fault Refusal :=
  if s.inService then .next s.boundary else .next s

/-- The end of the start hold: LISTEN begins, the line is followed from the reset values, and roll intervals are
counted from here (R63, R174, R176). -/
def State.beginListen (s : State) : State :=
  { s.enter (.listen 0) with line := { s.line with cellClock := 0 }, timebase := { s.timebase with rollTicks := 0 } }

/-- START_HOLD_END (R176). -/
def execStartHoldEnd (s : State) : Host.Outcome State Fault Refusal :=
  if s.running && decide (s.station = .start) then .next s.beginListen else .next s

/-- LISTEN_END (R177): at the third boundary of LISTEN the station enters JOINING with reason START (R101). -/
def execListenEnd (s : State) : Host.Outcome State Fault Refusal :=
  if s.running && s.station.listenOver then .next (judgeFault s (s.enterJoining .start)) else .next s

/-- TRANSFER_TIMEOUT (R116): the transfer timer has reached 4. -/
def execTransferTimeout (s : State) : Host.Outcome State Fault Refusal :=
  if s.running && s.station.transferOver then .next (judgeFault s s.retryJoin) else .next s

/-- MUTED_TIMER_EXPIRY (R82): the MUTED timer has reached 64. -/
def execMutedTimerExpiry (s : State) : Host.Outcome State Fault Refusal :=
  if s.running && s.station.mutedOver then .next (judgeFault s (s.enterJoining .unmute)) else .next s

end Sys2Proof.Machine
end

