-- ==== Sys2Proof/Machine/Dispatch.lean ====
section
/-!
DEFINITION. The meaning of every command: one arm for each row of spec/opcode_table.json, in the table's order.
-/

namespace Sys2Proof.Machine

def exec (i : Instr) (s : State) : Host.Outcome State Fault Refusal :=
  match i with
  | .powerOn => Sys2Proof.Machine.execPowerOn s
  | .supplyLost => Sys2Proof.Machine.execSupplyLost s
  | .pinReset => Sys2Proof.Machine.execPinReset s
  | .resetEnd => Sys2Proof.Machine.execResetEnd s
  | .startHoldEnd => Sys2Proof.Machine.execStartHoldEnd s
  | .listenEnd => Sys2Proof.Machine.execListenEnd s
  | .sampleTick fields buttons => Sys2Proof.Machine.execSampleTick fields buttons s
  | .debouncedTransition p => Sys2Proof.Machine.execDebouncedTransition p s
  | .buttonDebouncedChange b => Sys2Proof.Machine.execButtonDebouncedChange b s
  | .flashPhaseAdvance => Sys2Proof.Machine.execFlashPhaseAdvance s
  | .rollIntervalBoundary => Sys2Proof.Machine.execRollIntervalBoundary s
  | .silenceLimit n => Sys2Proof.Machine.execSilenceLimit n s
  | .quietCounterLimit => Sys2Proof.Machine.execQuietCounterLimit s
  | .transferTimeout => Sys2Proof.Machine.execTransferTimeout s
  | .mutedTimerExpiry => Sys2Proof.Machine.execMutedTimerExpiry s
  | .gapFramed => Sys2Proof.Machine.execGapFramed s
  | .ownStart recessive => Sys2Proof.Machine.execOwnStart recessive s
  | .arbitrationLost cell => Sys2Proof.Machine.execArbitrationLost cell s
  | .collision cell => Sys2Proof.Machine.execCollision cell s
  | .lineHeld => Sys2Proof.Machine.execLineHeld s
  | .lineHeldEnd => Sys2Proof.Machine.execLineHeldEnd s
  | .frameChecked cells => Sys2Proof.Machine.execFrameChecked cells s
  | .ownFrameOutcome slots => Sys2Proof.Machine.execOwnFrameOutcome slots s
  | .receivedFrameOutcome slots => Sys2Proof.Machine.execReceivedFrameOutcome slots s
  | .burnCompletion => Sys2Proof.Machine.execBurnCompletion s
  | .vppLost => Sys2Proof.Machine.execVppLost s
  | .truncatedSelection code => Sys2Proof.Machine.execTruncatedSelection code s
  | .unknownRequest code => Sys2Proof.Machine.execUnknownRequest code s
  | .status => Sys2Proof.Machine.execStatus s
  | .acknowledge mask => Sys2Proof.Machine.execAcknowledge mask s
  | .list operand => Sys2Proof.Machine.execList operand s
  | .presence => Sys2Proof.Machine.execPresence s
  | .points => Sys2Proof.Machine.execPoints s
  | .counters => Sys2Proof.Machine.execCounters s
  | .clearCounters => Sys2Proof.Machine.execClearCounters s
  | .press button => Sys2Proof.Machine.execPress button s
  | .settings cell => Sys2Proof.Machine.execSettings cell s
  | .openSession vpp => Sys2Proof.Machine.execOpenSession vpp s
  | .stage cell value => Sys2Proof.Machine.execStage cell value s
  | .burn vpp => Sys2Proof.Machine.execBurn vpp s
  | .close => Sys2Proof.Machine.execClose s
  | .restart => Sys2Proof.Machine.execRestart s
  | .anothersStart recessive => Sys2Proof.Machine.execAnothersStart recessive s
  | .dominantCellNotAStart recessive => Sys2Proof.Machine.execDominantCellNotAStart recessive s
  | .selFallingEdge => Sys2Proof.Machine.execSelFallingEdge s

end Sys2Proof.Machine
end

