-- ==== Sys2Proof/Machine/Idle.lean ====
section
/-!
DEFINITION. What the station does by itself when no command waits (log entry 2): first any follow-up event that is
due, then one period of the 4.000 MHz clock passes (R173), with the line as quiet as its last event left it.
-/

namespace Sys2Proof.Machine

/-- The first follow-up event that is due, if any. -/
def State.followUp (s : State) : Option Instr :=
  if !s.inService then none
  else
    match (List.finRange 8).find? fun p => (s.points[p]).due with
    | some p => some (.debouncedTransition p)
    | none =>
      match [Button.ack, .silence, .clear, .test].find? fun b => (s.buttons.get b).due with
      | some b => some (.buttonDebouncedChange b)
      | none =>
        match (List.finRange 32).find? fun n => decide (n ≠ s.own) && (s.presence.peers[n]).due with
        | some n => some (.silenceLimit n)
        | none =>
          if s.presence.quietDue then some .quietCounterLimit
          else if s.station.listenOver then some .listenEnd
          else if s.station.transferOver then some .transferTimeout
          else if s.station.mutedOver then some .mutedTimerExpiry
          else none

/-! Line cells (R60, R64, R65). -/

/-- No slot is driven by anyone. -/
def quietSlots : Slots := { veto := .recessive, agree := .recessive, step := .recessive }

/-- A cell outside a frame ends: it was recessive, and with the gap at the threshold and an eligible entry the station
starts at this boundary (R64, R65). -/
def State.quietCell (s : State) : State :=
  let s1 := s.mapLine fun l => { l.readRecessive 1 with cellClock := 0 }
  if s1.line.mayStart && s1.hasEligible then s1.startOwn else s1

/-- A cell of the station's own frame ends: no other station drives, so it reads back what it sent; after the STEP
cell it takes its outcome (R62, R74). -/
def State.sentCell (s : State) (x : InFrame) (f : Frame) : State :=
  let bytesEnd := 10 * frameLength f.body.code
  if x.cell + 1 < bytesEnd + 3 then
    s.mapLine fun l =>
      { l with
        held := runCell l.held (if x.cell < bytesEnd then sentLevel f x.cell else .recessive)
        frame := some { x with cell := x.cell + 1 }
        cellClock := 0 }
  else judgeFault s (s.endOwnFrame x f quietSlots)

/-- A cell passes in the frame of a sender that met a collision, which drives recessive up to its VETO cell and counts
its VETO there (R68, R188). -/
def State.collidedCell (s : State) (x : InFrame) : State :=
  (s.mapLine fun l => { l with held := 0, frame := some { x with cell := x.cell + 1 }, cellClock := 0 }).countVeto
    (x.role.entersVeto x.cell (x.cell + 1))

/-- The cell clock advances to its end. -/
def State.advanceCell (s : State) (atEnd : State) : State :=
  if s.line.cellClock + 1 < s.inUse.clocksPerCell then
    s.mapLine fun l => { l with cellClock := l.cellClock + 1 }
  else atEnd

/-- One clock period of the line. Cells of other stations' frames, and the cells of a held line, come with commands
and do not pass here; a collided sender counts its own cells as far as its VETO cell (log entry 3). -/
def State.lineClock (s : State) : State :=
  if !s.inService then s
  else
    match s.line.frame with
    | none => if s.line.held < Config.heldLimit then s.advanceCell s.quietCell else s
    | some x =>
      match x.role with
      | .transmitter f => s.advanceCell (s.sentCell x f)
      | .receiver => s
      | .collided f => if x.cell < f.vetoCell then s.advanceCell (s.collidedCell x) else s

/-! Burn and base tick (R170, R173, R174, R176). -/

/-- One clock period of a running burn (R170). -/
def State.burnClock (s : State) : State :=
  if s.burning then
    (if s.timebase.burnClocks + 1 < Config.burnClocks then
      { s with timebase := { s.timebase with burnClocks := s.timebase.burnClocks + 1 } }
    else s.completeBurn)
  else s

/-- The sample tick is every second base tick; the idle clock samples the levels that stand at the pins (R173). -/
def State.sampleDivider (s : State) : State :=
  if s.timebase.sampleNext then s.sampleTick s.pins.fields s.pins.buttons
  else { s with timebase := { s.timebase with sampleNext := true } }

/-- One base tick (R173). -/
def State.baseTick (s : State) : State := s.sampleDivider.countTicks 1

/-- One clock period of the base tick divider (R173). -/
def State.tickClock (s : State) : State :=
  if s.timebase.clock + 1 < Config.clocksPerTick then
    { s with timebase := { s.timebase with clock := s.timebase.clock + 1 } }
  else ({ s with timebase := { s.timebase with clock := 0 } }).baseTick

/-- The flash phase advances at every 125th base tick (R173). -/
def State.flashDivider (s : State) : State :=
  if Config.ticksPerFlash ≤ s.timebase.flashTicks then { s with timebase := s.timebase.advanceFlash } else s

/-- A boundary falls once every roll interval from the entry to LISTEN (R174). -/
def State.rollDivider (s : State) : State :=
  if s.inService && decide (s.inUse.rollTicks ≤ s.timebase.rollTicks) then s.boundary else s

/-- The start hold lasts 4 ms × (station number + 1) (R176). -/
def State.holdDivider (s : State) : State :=
  if s.station = .start ∧ Config.holdTicksPerNumber * (s.own.val + 1) ≤ s.timebase.holdTicks then s.beginListen else s

/-- The events that the counts of base ticks have reached (R173, R174, R176). -/
def State.dueTicks (s : State) : State := s.flashDivider.rollDivider.holdDivider

/-- One period of the clock input passes: line, burn, base tick, and what the base ticks counted have made due. -/
def State.clockPeriod (s : State) : State := s.lineClock.burnClock.tickClock.dueTicks

/-- The step with no command waiting: without supply or while a reset lasts nothing happens. -/
def idle (s : State) : Host.Outcome State Fault Refusal :=
  if s.running then
    (match s.followUp with
    | some c => exec c s
    | none => .next s.clockPeriod)
  else .next s

end Sys2Proof.Machine
end

