-- ==== Sys2Proof/Safety.lean ====
section
/-!
DEFINITION. What a sound station keeps: the laws the spec gives for its state, which statements about every state take
as premises or prove kept by every step; and short names for what statements say about a step.
-/

namespace Sys2Proof.Machine

/-! Laws of the state. -/

/-- At most 64 records, no two for one point (R4), and the overflow indication only at 64 (R13). -/
def ListLaw (l : AnnList) : Prop :=
  l.records.length ≤ 64 ∧ (l.records.map Record.id).Nodup ∧ (l.overflow = true → l.records.length = 64)

/-- The frame the station has on the line, from its start cell to its outcome: as a transmitter, or after a collision
(R48, R68). -/
def Line.sending (l : Line) : Option Frame :=
  match l.frame with
  | none => none
  | some x =>
    match x.role with
    | .transmitter f => some f
    | .collided f => some f
    | .receiver => none

/-- The subject of the entry that a bulletin was assembled from (R44, R54). -/
def Bulletin.subject : Bulletin → Subject
  | .raise p _ => .raise p
  | .loss n => .loss n
  | .ret p _ => .ret p
  | .ack _ => .ack
  | .silence _ => .silence
  | .clear _ => .clear
  | .presenceRoll _ _ _ => .presenceRoll
  | .transferRoll r => .transferRoll r.target
  | .join r _ => .join r

/-- The entries in flight. -/
def Outbox.inFlight (o : Outbox) : List Entry := o.entries.filter Entry.inFlight

/-- The pending entries. -/
def Outbox.waiting (o : Outbox) : List Entry := o.entries.filter fun e => !e.inFlight

/-- Exactly the entry of the frame on the line is in flight (R48), and what the outbox may hold by station state: no JOIN
while ACTIVE, one JOIN alone while asking, nothing in every other state (R57, Table 6-1). -/
def FlightLaw (s : State) : Prop :=
  (match s.line.sending with
    | none => s.outbox.inFlight = []
    | some f => s.outbox.inFlight = [⟨f.body.subject, true⟩] ∧ f.sender = s.own)
  ∧ match s.station with
    | .active => ∀ e ∈ s.outbox.entries, e.subject.isJoin = false
    | .joining .asking => ∃ r b, s.outbox.entries = [⟨.join r, b⟩]
    | _ => s.outbox.entries = []

/-- The two subjects name one peer: a LOSS and a transfer roll for it (R53). -/
def Subject.peer : Subject → Option StationNo
  | .loss n => some n
  | .transferRoll n => some n
  | _ => none

/-- Two entries that cannot both be pending: equal subjects, or a LOSS and a transfer roll for one peer. -/
def Subject.clashes (x y : Subject) : Prop := x = y ∨ (x.peer.isSome ∧ x.peer = y.peer)

/-- What the offers of R49 to R53 and R152 keep: no two pending entries clash, an entry in flight clashes with no pending
entry but a newer group action of its kind, it is the oldest entry of its field point, and no entry and no walk names
the station itself. -/
def OutboxLaw (s : State) : Prop :=
  s.outbox.waiting.Pairwise (fun a b => ¬a.subject.clashes b.subject)
  ∧ (∀ older e newer, s.outbox.entries = older ++ e :: newer → e.inFlight = true →
      (∀ x ∈ older, ¬x.subject.clashes e.subject)
      ∧ (∀ x ∈ newer, e.subject.isGroupAction = false → ¬e.subject.clashes x.subject)
      ∧ (∀ p, e.subject.ofPoint p = true → ∀ x ∈ older, x.subject.ofPoint p = false))
  ∧ (∀ e ∈ s.outbox.entries, e.subject.peer ≠ some s.own)
  ∧ (∀ w ∈ s.annList.walks, w.target ≠ s.own)

/-- The strike count is 16 in MUTED and 0 to 15 in every other state (R79). -/
def StrikeLaw (s : State) : Prop :=
  match s.station with
  | .muted _ _ => s.line.strikes = 16
  | _ => s.line.strikes ≤ 15

/-- A silence counter lies in 0 to 8 and stands at 0 in an entry that does not count; the own entry is not kept; the
quiet counter lies in 0 to 2 (R122, R127, R129). -/
def PresenceLaw (s : State) : Prop :=
  (∀ n : StationNo,
    (s.presence.peers[n]).silence ≤ 8
    ∧ ((s.presence.peers[n]).state.counts = false → (s.presence.peers[n]).silence = 0))
  ∧ (s.presence.peers[s.own]).state = .absent
  ∧ s.presence.quiet ≤ 2

/-- The counts the spec bounds lie in their ranges: gap and held run (R63), run counts (R134, R149), the boundaries of
LISTEN (R177), the transfer timer (R100) and the MUTED timer (R63). -/
def RangeLaw (s : State) : Prop :=
  s.line.gap ≤ 24 ∧ s.line.held ≤ 12
  ∧ (∀ p : LocalPoint, (s.points[p]).run ≤ 7)
  ∧ (∀ b : Button, (s.buttons.get b).run ≤ 7)
  ∧ match s.station with
    | .listen n => n ≤ 3
    | .joining (.admitted t) => t ≤ 4
    | .joining (.filling t) => t ≤ 4
    | .muted t _ => t ≤ 64
    | _ => True

/-- A programming session is open or burning only in UNCOMMISSIONED and on a store that is not commissioned, and a burn
has a staged pair (R167, R168, R170). -/
def SessionLaw (s : State) : Prop :=
  (s.session.phase ≠ .closed → isCommissioned s.store = false ∧ ∃ c, s.station = .uncommissioned c)
  ∧ (s.session.phase = .burning → s.session.staged.isSome)

/-- In START and UNCOMMISSIONED the station holds no list, no entry, no peer and no frame, and its line count is 0; and a
running station has settings in use unless it is UNCOMMISSIONED (R18, R63, R83, R122, R163). -/
def SilentLaw (s : State) : Prop :=
  (s.station.inService = false →
    s.annList.records = [] ∧ s.annList.overflow = false ∧ s.annList.walks = [] ∧ s.outbox.entries = []
    ∧ s.lineCount = 0 ∧ s.line.frame = none ∧ s.line.strikes = 0 ∧ ∀ n : StationNo, s.peerState n = .absent)
  ∧ (s.running = true → (s.settings = none ↔ ∃ c, s.station = .uncommissioned c))

/-! Option laws of a list (R11, R20). -/

/-- No record of a group without LOCKIN is LAPSED, and none of a group with AUTOCLEAR is SETTLED (R20). -/
def OptionLaw (options : Group → GroupOptions) (rs : List Record) : Prop :=
  ∀ r ∈ rs,
    (r.state = .lapsed → (options r.group).lockin = true) ∧ (r.state = .settled → (options r.group).autoclear = false)

/-- A marked record belongs to a FIRSTOUT group and no older record of its group is in the list, so a group has at most
one (R11). -/
def FirstOutLaw (options : Group → GroupOptions) (rs : List Record) : Prop :=
  ∀ older r newer, rs = older ++ r :: newer → r.firstOut = true →
    (options r.group).firstout = true ∧ ∀ x ∈ older, x.group ≠ r.group

/-- The records from the head up to and including a walk's cursor: what its joiner holds (R112). -/
def sentPart (rs : List Record) (cursor : Option PointId) : List Record :=
  match cursor with
  | none => []
  | some c => rs.takeWhile (fun r => r.id != c) ++ (rs.find? fun r => r.id == c).toList

/-- A walk's cursor stands before the head or on a record of the list (R16). -/
def CursorLaw (rs : List Record) (cursor : Option PointId) : Prop := ∀ c, cursor = some c → holds rs c = true

/-- The content of a frame keeps R43: a transfer roll without a record is marked last. -/
def Frame.wellFormed (f : Frame) : Prop :=
  match f.body with
  | .transferRoll r => r.record.isSome ∨ r.last = true
  | _ => True

/-! What statements say of a step. -/

/-- Every block but the service port's slot and cause stands at its reset values (Table 10-2). -/
def State.atResetValues (t : State) : Prop :=
  t.annList.records = [] ∧ t.annList.overflow = false ∧ t.annList.walks = []
  ∧ t.outbox.entries = [] ∧ (∀ p : LocalPoint, t.outbox.owed[p] = false)
  ∧ t.line.gap = 0 ∧ t.line.held = 0 ∧ t.line.framed = false ∧ t.line.frame = none ∧ t.line.strikes = 0
  ∧ t.lineCount = 0
  ∧ (∀ n : StationNo, (t.presence.peers[n]).state = .absent ∧ (t.presence.peers[n]).silence = 0) ∧ t.presence.quiet = 0
  ∧ (∀ p : LocalPoint,
      (t.points[p]).run = 0 ∧ (t.points[p]).abnormal = false ∧ (t.points[p]).caught = false
      ∧ (t.points[p]).waiting = false)
  ∧ (∀ b : Button, (t.buttons.get b).run = 0 ∧ (t.buttons.get b).pressed = false)
  ∧ t.session = { phase := .closed, staged := none, lastBurn := .none }
  ∧ t.timebase.clock = 0 ∧ t.timebase.sampleNext = false ∧ t.timebase.flashTicks = 0 ∧ t.timebase.flashPhase = 0

/-- What no frame and no follow-up event touches: power, settings, store, session, inputs, the waiting commands, and the
service port but for its latches and counters. -/
def State.sameOutside (s t : State) : Prop :=
  t.power = s.power ∧ t.settings = s.settings ∧ t.store = s.store ∧ t.session = s.session ∧ t.timebase = s.timebase
  ∧ t.buttons = s.buttons ∧ t.pins = s.pins ∧ t.pending = s.pending
  ∧ t.port.slot = s.port.slot ∧ t.port.shifted = s.port.shifted ∧ t.port.selection = s.port.selection
  ∧ t.port.cause = s.port.cause

/-- The state after some steps; a step that answers no next state would leave it where it is. -/
def State.steps (s : State) : Nat → State
  | 0 => s
  | n + 1 =>
    match step (s.steps n) with
    | .next t => t
    | _ => s.steps n

/-- `t` is `s` just after an entry to JOINING with a reason (R101, R123). -/
def State.joinsWith (s t : State) (r : Reason) : Prop :=
  t.station = .joining .asking
  ∧ t.annList = { records := [], overflow := false, walks := [] }
  ∧ t.outbox = { entries := [⟨.join r, false⟩], owed := Vector.replicate 8 false }
  ∧ (∀ n : StationNo, t.peerState n = .absent ∧ (t.presence.peers[n]).silence = 0)
  ∧ t.line.strikes = (match s.station with | .muted _ _ => 0 | _ => s.line.strikes)
  ∧ t.points = s.points
  ∧ t.port.latches.stateChanged = true
  ∧ s.sameOutside t

/-- The station has transmitted the frame to its end and met no collision. -/
def State.hasSent (s : State) (f : Frame) : Prop :=
  s.inService = true
  ∧ ∃ cell, s.line.frame = some { cell := cell, role := .transmitter f, heard := .unchecked, drive := none }

/-- The station sent the frame, met a collision and follows it to its end; `awaits` says that its VETO cell has not come
yet. Where it has come after a check, the last tail cell read recessive. -/
def State.hasCollided (s : State) (f : Frame) (awaits : Bool) : Prop :=
  s.inService = true
  ∧ ∃ cell heard, s.line.frame = some { cell := cell, role := .collided f, heard := heard, drive := some .veto }
    ∧ awaits = decide (cell < 10 * frameLength f.body.code)
    ∧ (awaits = true ∨ heard = .unchecked ∨ s.line.held = 0)

/-- The station has received the frame, found a format error and drives this slot; too few dominant cells end it for the
slots to bring the held run to 12, and no timer's end is due. -/
def State.hasMisread (s : State) (drive : Option Slot) : Prop :=
  s.inService = true ∧ s.station.timerOver = false ∧ s.line.held ≤ 8
  ∧ ∃ cell, s.line.frame = some { cell := cell, role := .receiver, heard := .formatError, drive := drive }

/-- The station has received and checked the frame, found it well-formed and drives this slot; the last tail cell read
recessive, and no timer's end is due. -/
def State.hasHeard (s : State) (f : Frame) (drive : Option Slot) : Prop :=
  s.inService = true ∧ s.station.timerOver = false ∧ s.line.held = 0
  ∧ ∃ cell, s.line.frame = some { cell := cell, role := .receiver, heard := .wellFormed f, drive := drive }

/-- The line as the end of a STEP cell leaves it: outside a frame, framed, gap count 0 (R64). -/
def Line.leftFrame (l l' : Line) : Prop := l'.frame = none ∧ l'.framed = true ∧ l'.gap = 0 ∧ l'.strikes = l.strikes

/-! What acceptances offer and transfer rolls leave. -/

/-- The republish sequence of a WAITING point at a removal acceptance (Table 8-2). -/
def State.requeued (s : State) (p : LocalPoint) : List Subject :=
  if (s.inUse.points[p]).mode = .level ∧ (s.points[p]).abnormal = true then [.raise p]
  else if (s.points[p]).caught = true then [.raise p, .ret p]
  else []

/-- An outbox after the requeue of one point, judged on `s`: a point that was WAITING has its entries replaced by its
sequence, if it has one (R144, R51). -/
def State.requeueOutbox (s : State) (o : Outbox) (p : LocalPoint) : Outbox :=
  if (s.points[p]).waiting = true ∧ s.requeued p ≠ [] then
    { entries := o.entries.filter (fun e => !e.subject.ofPoint p) ++ (s.requeued p).map fun x => ⟨x, false⟩
      owed := update o.owed p fun _ => false }
  else o

/-- An outbox after the LOSS requeue of one peer of `s`, judged on the presence table and records of `t`: a SILENT peer whose
loss point has no record has a LOSS offered, which is taken where neither a LOSS naming it nor a transfer roll for it is
there (R131, R53). -/
def State.lossRequeueOutbox (s t : State) (o : Outbox) (n : StationNo) : Outbox :=
  if n ≠ s.own ∧ t.peerState n = .silent ∧ (t.annList.records.all fun r => r.id != lossPoint n) = true
      ∧ o.has (.loss n) = false ∧ o.has (.transferRoll n) = false then
    { o with entries := o.entries ++ [⟨.loss n, false⟩] }
  else o

/-- The outbox after the offers of a removal acceptance that took the station from `s` to `t`: the points first, then the
peers, each the lowest first (R144, R131). -/
def State.removalOffers (s t : State) (o : Outbox) : Outbox :=
  (List.finRange 32).foldl (s.lossRequeueOutbox t) ((List.finRange 8).foldl s.requeueOutbox o)

/-- The state of a peer's entry once it is noted as the sender of an accepted bulletin (R124, last row of Table 7-3). -/
def notedState : PeerState → PeerState
  | .absent => .active
  | .joining => .active
  | other => other

/-- Table 7-3: the state in which an accepted bulletin leaves a peer's entry, with the JOIN row as a passive station takes
it. -/
def Frame.entryAfter (f : Frame) (n : StationNo) (st : PeerState) : PeerState :=
  let bySender := if n = f.sender then notedState st else st
  match f.body with
  | .join _ _ => if n = f.sender ∧ st ≠ .discord then .joining else st
  | .loss k => if n = k then (if st = .discord then .discord else .silent) else bySender
  | .transferRoll r =>
    if n = r.target ∧ r.last = true then (if st = .discord then .discord else .active) else bySender
  | _ => bySender

/-- A peer's entry after an accepted bulletin (R122, R124): a change of state clears its silence counter, and so does a
transfer roll for the peer. -/
def Frame.peerAfter (f : Frame) (n : StationNo) (e : Peer) : Peer :=
  if f.entryAfter n e.state ≠ e.state then { state := f.entryAfter n e.state, silence := 0, due := false }
  else
    match f.body with
    | .transferRoll r => if n = r.target then { e with silence := 0 } else e
    | _ => e

/-- What a transfer roll taken leaves of the joiner `s`, apart from line count and line (R110 to R113, R116, R126): at a
transfer error an empty list and a JOIN with reason RETRY, even at a last roll; otherwise the list with its record, and
the timer at 0; and at a last roll the overflow indication, ACTIVE, the marks of R126 and the reconciliation of every
point, lowest first. -/
def State.takesRoll (s t : State) (sender : StationNo) (r : Roll) : Prop :=
  let noted := fun (n : StationNo) => if n = sender then notedState (s.peerState n) else s.peerState n
  (takeRecord s.annList.records r.predecessor r.record = none →
    t.station = .joining .asking ∧ t.annList = { records := [], overflow := false, walks := [] }
    ∧ t.points = s.points ∧ t.presence.quiet = s.presence.quiet ∧ t.port.latches.stateChanged = true
    ∧ (∀ n, n ≠ s.own → t.peerState n = noted n)
    ∧ (s.outbox.entries = [] → t.outbox.entries = [⟨.join .retry, false⟩]))
  ∧ ∀ rs, takeRecord s.annList.records r.predecessor r.record = some rs →
    t.annList.records = rs ∧ t.annList.walks = s.annList.walks
    ∧ (r.last = false →
      t.station = .joining (.filling 0) ∧ t.annList.overflow = s.annList.overflow
      ∧ t.outbox = s.outbox ∧ t.points = s.points ∧ t.presence.quiet = s.presence.quiet
      ∧ ∀ n, n ≠ s.own → t.peerState n = noted n)
    ∧ (r.last = true →
      let u := (List.finRange 8).foldl State.reconcilePoint
        { s with station := .active, annList := { s.annList with records := rs } }
      t.station = .active ∧ t.annList.overflow = (r.overflow && decide (rs.length = 64))
      ∧ t.outbox = u.outbox ∧ t.points = u.points ∧ t.presence.quiet = 0 ∧ t.port.latches.stateChanged = true
      ∧ ((rs.map Record.id).Nodup → ∀ n, n ≠ s.own →
          t.peerState n
            = if noted n ≠ .discord ∧ ∃ x ∈ rs, x.id = lossPoint n ∧ (x.state = .alert ∨ x.state = .held) then .silent
              else noted n))

/-- One more in a diagnostic counter, which stays at 65535 (R188). -/
def counted (c : Half) : Half := BitVec.ofNat 16 (min 65535 (c.toNat + 1))

/-- The answer of the service port at the end of a selection that is served: the response fills the slot, and the
selection has shifted out the former contents (R179). -/
def State.answered (s t : State) (bytes : List Byte) : Prop :=
  t.port.slot = bytes ∧ t.port.selection = .idle
  ∧ t.port.shifted = (if s.port.selection = .served then s.port.shifted else s.port.slot)

/-- Nothing of the station has changed but the response slot and its selection. -/
def State.onlyAnswers (s t : State) : Prop :=
  t = { s with port := { s.port with slot := t.port.slot, shifted := t.port.shifted, selection := t.port.selection } }

/-- A request can be taken: no reset lasts and its selection began after the last reset (R179). -/
def State.serves (s : State) : Prop := s.power = .running ∧ s.port.selection ≠ .unserved

end Sys2Proof.Machine
end

