-- ==== Sys2Proof/Certificates/Slice0/Obligations.lean ====
section
/-!
DEFINITION. The statements for the provers. OBLIGATIONS.json gives each one's rule or sections.
-/

section Statements

open Sys2Proof Sys2Proof.Machine

/-! The machine as a whole. -/

/-- A step with a command at the front of the queue is that command's meaning on the state with the queue's rest. -/
def Obligations.StepTakesTheFrontCommand : Prop :=
  ∀ (c : Instr) (rest : List Instr) (s : State),
    step { s with pending := c :: rest } = exec c { s with pending := rest }

/-- Every command answers a next state from every state, and leaves the waiting commands as they are. That a command
which cannot occur changes nothing is the model's choice (log entry 1). -/
def Obligations.EveryCommandAnswersAndLeavesTheQueue : Prop :=
  ∀ (c : Instr) (s : State), ∃ t, exec c s = .next t ∧ t.pending = s.pending

/-- The reset state keeps every law. -/
def Obligations.ResetStateKeepsTheLaws : Prop :=
  ListLaw State.reset.annList ∧ FlightLaw State.reset ∧ OutboxLaw State.reset ∧ StrikeLaw State.reset
  ∧ PresenceLaw State.reset ∧ RangeLaw State.reset ∧ SessionLaw State.reset ∧ SilentLaw State.reset

/-- Every step keeps the list law: at most 64 records, one per point, overflow only at 64. -/
def Obligations.StepKeepsTheListLaw : Prop :=
  ∀ s t : State, ListLaw s.annList → step s = .next t → ListLaw t.annList

/-- Every step keeps exactly the entry of the frame on the line in flight, and in the outbox what the station state
allows. -/
def Obligations.StepKeepsTheFlightLaw : Prop :=
  ∀ s t : State, FlightLaw s → step s = .next t → FlightLaw t

/-- Every step keeps the outbox law, in a state that keeps the flight law. -/
def Obligations.StepKeepsTheOutboxLaw : Prop :=
  ∀ s t : State, FlightLaw s → OutboxLaw s → step s = .next t → OutboxLaw t

/-- The outbox holds at most 52 entries, kind by kind as R57's table counts them: two of one field point and those of
opposite kinds, three pending group actions, one pending LOSS or transfer roll for a peer, one presence roll, one entry in
flight; and a JOIN only while the station is not ACTIVE, and then nothing else; in every state that keeps the flight law
and the outbox law. -/
def Obligations.OutboxHoldsAtMost52Entries : Prop :=
  ∀ s : State, FlightLaw s → OutboxLaw s →
    let o := s.outbox
    o.entries.length ≤ 52
    ∧ (∀ p : LocalPoint,
        (o.ofPoint p).length ≤ 2
        ∧ ∀ a b, o.ofPoint p = [a, b] → a.subject ≠ b.subject)
    ∧ (o.entries.filter fun e => decide (e.subject.code = 0 ∨ e.subject.code = 2)).length ≤ 16
    ∧ (o.waiting.filter fun e => e.subject.isGroupAction).length ≤ 3
    ∧ (∀ n : StationNo, (o.waiting.filter fun e => decide (e.subject.peer = some n)).length ≤ 1)
    ∧ (o.waiting.filter fun e => e.subject.peer.isSome).length ≤ 31
    ∧ (o.entries.filter fun e => decide (e.subject = .presenceRoll)).length ≤ 1
    ∧ o.inFlight.length ≤ 1
    ∧ ∀ e ∈ o.entries, e.subject.isJoin = true → s.station ≠ .active ∧ o.entries = [e]

/-- Every step keeps the strike count at 16 in MUTED and at 0 to 15 elsewhere, in a state that keeps the flight law. -/
def Obligations.StepKeepsTheStrikeLaw : Prop :=
  ∀ s t : State, FlightLaw s → StrikeLaw s → step s = .next t → StrikeLaw t

/-- Every step keeps the presence law. -/
def Obligations.StepKeepsThePresenceLaw : Prop :=
  ∀ s t : State, PresenceLaw s → step s = .next t → PresenceLaw t

/-- Every step keeps every count in the range the spec gives it. -/
def Obligations.StepKeepsTheRangeLaw : Prop :=
  ∀ s t : State, RangeLaw s → step s = .next t → RangeLaw t

/-- Every step keeps sessions to UNCOMMISSIONED and to a store that is not commissioned. -/
def Obligations.StepKeepsTheSessionLaw : Prop :=
  ∀ s t : State, SessionLaw s → step s = .next t → SessionLaw t

/-- Every step keeps START and UNCOMMISSIONED silent, and the settings in use everywhere but in UNCOMMISSIONED. -/
def Obligations.StepKeepsTheSilentLaw : Prop :=
  ∀ s t : State, SilentLaw s → step s = .next t → SilentLaw t

/-- A cell of the settings store only gains bits, at every step, and a commissioned store does not change. -/
def Obligations.StoreOnlyGainsBitsAndIsFrozenOnceCommissioned : Prop :=
  ∀ s t : State, step s = .next t →
    (∀ (c : CellNo) (i : Nat), (s.store[c]).getLsbD i = true → (t.store[c]).getLsbD i = true)
    ∧ (SessionLaw s → isCommissioned s.store = true → t.store = s.store)

/-- At no command but a reset's do the settings in use change, is UNCOMMISSIONED left, or is DISCORD left; in DISCORD the
list with its overflow indication, the line count and the empty outbox stand still. -/
def Obligations.SettingsUncommissionedAndDiscordEndOnlyAtAReset : Prop :=
  ∀ (c : Instr) (s t : State), c ∉ [.powerOn, .supplyLost, .pinReset, .resetEnd, .restart] → FlightLaw s →
    exec c s = .next t →
    t.settings = s.settings
    ∧ (s.station = .discord →
      t.station = .discord ∧ t.annList = s.annList ∧ t.lineCount = s.lineCount ∧ t.outbox.entries = [])
    ∧ ∀ cause, s.station = .uncommissioned cause → t.station = .uncommissioned cause

/-- The records change only where a frame ends, and by emptying at the events that lead to JOINING or to a reset; the
line count moves only where a frame ends or at a reset. A frame's check empties the list only where the end of a timer is
due and is taken with it (log entry 20). -/
def Obligations.ListAndLineCountMoveOnlyAtOutcomesAndResets : Prop :=
  ∀ (c : Instr) (s t : State), exec c s = .next t →
    ((∀ slots, c ≠ .ownFrameOutcome slots ∧ c ≠ .receivedFrameOutcome slots) →
      (t.annList.records = s.annList.records ∨ t.annList.records = [])
      ∧ (c ∉ [.listenEnd, .transferTimeout, .mutedTimerExpiry, .powerOn, .supplyLost, .pinReset, .resetEnd, .restart] →
        (s.station.timerOver = false ∨ ∀ cells, c ≠ .frameChecked cells) →
        t.annList.records = s.annList.records ∧ t.annList.overflow = s.annList.overflow))
    ∧ ((∀ slots, c ≠ .ownFrameOutcome slots ∧ c ≠ .receivedFrameOutcome slots) →
        c ∉ [.powerOn, .supplyLost, .pinReset, .resetEnd, .restart] → t.lineCount = s.lineCount)

/-- Outside resets and ACKNOWLEDGE a set latch stays set, and a changed list or overflow indication, a changed presence
entry, a changed station state or JOINING phase, and a turn of FAULT from off to on each leave their latch set. Nothing else
sets one, where the law of the entry in flight holds, but for two corners: an accepted LOSS naming the station, which may
change and empty the list in one event (the model's choice: log entry 13), and, for the presence entries, a check that takes
a timer's end first (log entry 20). -/
def Obligations.EveryChangeSetsItsNotifyLatch : Prop :=
  ∀ (c : Instr) (s t : State), c ∉ [.powerOn, .supplyLost, .pinReset, .resetEnd, .restart] →
    (∀ mask, c ≠ .acknowledge mask) → exec c s = .next t →
    let list := t.annList.records ≠ s.annList.records ∨ t.annList.overflow ≠ s.annList.overflow
    let peers := ∃ n : StationNo, n ≠ s.own ∧ t.peerState n ≠ s.peerState n
    let station := t.station.code ≠ s.station.code ∨ t.station.phaseCode ≠ s.station.phaseCode
    let noOwnLoss := ∀ x f, s.line.frame = some x →
      (x.role = .transmitter f ∨ x.role = .collided f ∨ x.heard = .wellFormed f) → f.body ≠ .loss s.own
    (s.port.latches.listChanged = true ∨ list → t.port.latches.listChanged = true)
    ∧ (noOwnLoss → t.port.latches.listChanged = true → s.port.latches.listChanged = true ∨ list)
    ∧ (s.port.latches.presenceChanged = true ∨ peers → t.port.latches.presenceChanged = true)
    ∧ (noOwnLoss → (s.station.timerOver = false ∨ ∀ cells, c ≠ .frameChecked cells) →
      t.port.latches.presenceChanged = true → s.port.latches.presenceChanged = true ∨ peers)
    ∧ (s.port.latches.stateChanged = true ∨ station → t.port.latches.stateChanged = true)
    ∧ (FlightLaw s → t.port.latches.stateChanged = true → s.port.latches.stateChanged = true ∨ station)
    ∧ (t.port.latches.fault = true ↔ s.port.latches.fault = true ∨ (s.faultOn = false ∧ t.faultOn = true))

/-- A diagnostic counter never falls but at CLEAR_COUNTERS and a power-on, rises by at most one at a command, and stays
at 65535. -/
def Obligations.CountersRiseByOneAndSaturate : Prop :=
  ∀ (c : Instr) (s t : State), c ≠ .clearCounters → c ≠ .powerOn → exec c s = .next t →
    ∀ i : Nat, i < 7 →
      let a := (s.port.counters.toList.getD i 0).toNat
      let b := (t.port.counters.toList.getD i 0).toNat
      (b = a ∨ b = a + 1) ∧ (a = 65535 → b = 65535)

/-! Formats (12). -/

/-- A receiver that reads a frame's own cells finds exactly the frame that was sent, for every well-formed frame: kind,
sender, count and every field of every body. -/
def Obligations.SentCellsReadBackAsTheSameFrame : Prop :=
  ∀ f : Frame, f.wellFormed → readFrame (frameCells f) = some f

/-! The alarm sequence on the list (01, 02). -/

/-- Table 2-3: what an accepted RAISE does to the record of its point. -/
def Obligations.RaiseAddsReAlarmsOrIsRefused : Prop :=
  ∀ (options : Group → GroupOptions) (lossGroup : Group) (rs : List Record) (f : Frame) (p : LocalPoint) (g : Group),
    f.body = .raise p g → (rs.map Record.id).Nodup →
    let answer := alarmSequence options lossGroup false f rs
    (findRecord rs (fieldPoint f.sender p) = none → rs.length < 64 →
      answer = (.published, rs ++
        [{ id := fieldPoint f.sender p, state := .alert, group := g,
           firstOut := (options g).firstout && rs.all (fun r => r.group != g), silenced := false }]))
    ∧ (findRecord rs (fieldPoint f.sender p) = none → 64 ≤ rs.length → answer = (.refused, rs))
    ∧ ∀ older r newer, rs = older ++ r :: newer → r.id = fieldPoint f.sender p →
        answer = (.published, older
          ++ (if r.state = .lapsed ∨ r.state = .settled then { r with state := .alert, silenced := false } else r)
            :: newer)

/-- Tables 2-4 and 2-6 and R27, R28: what an accepted RETURN, ACK, SILENCE or CLEAR does to a list, record by record and
in place, by the record's own group. -/
def Obligations.ReturnAndGroupActionsActRecordByRecord : Prop :=
  ∀ (options : Group → GroupOptions) (lossGroup : Group) (filling : Bool) (rs : List Record) (f : Frame),
    (∀ p g, f.body = .ret p g →
      alarmSequence options lossGroup filling f rs = (.notRaise, rs.filterMap fun r =>
        if r.id ≠ fieldPoint f.sender p then some r
        else match r.state with
          | .alert => if (options r.group).lockin then some { r with state := .lapsed } else none
          | .held => if (options r.group).autoclear then none else some { r with state := .settled, silenced := false }
          | _ => some r))
    ∧ (∀ m, f.body = .ack m →
      alarmSequence options lossGroup filling f rs = (.notRaise, rs.filterMap fun r =>
        if m.getLsbD r.group.val = false then some r
        else match r.state with
          | .alert => some { r with state := .held }
          | .lapsed => if (options r.group).autoclear then none else some { r with state := .settled, silenced := false }
          | _ => some r))
    ∧ (∀ m, f.body = .silence m →
      alarmSequence options lossGroup filling f rs = (.notRaise, rs.map fun r =>
        if m.getLsbD r.group.val = true ∧ r.state ≠ .held then { r with silenced := true } else r))
    ∧ ∀ m, f.body = .clear m →
      alarmSequence options lossGroup filling f rs = (.notRaise, rs.filter fun r =>
        !(m.getLsbD r.group.val && decide (r.state = .settled)))

/-- Tables 2-4 and 2-7 on loss points: a LOSS acts on L(s) as a RAISE in the loss group, a JOIN from s as a RETURN; a ROLL
changes no record. -/
def Obligations.LossRaisesAndJoinReturnsTheLossPoint : Prop :=
  ∀ (options : Group → GroupOptions) (lossGroup : Group) (filling : Bool) (rs : List Record) (f : Frame),
    (∀ n : StationNo, f.body = .loss n →
      (findRecord rs (lossPoint n) = none → rs.length < 64 → filling = false →
        alarmSequence options lossGroup filling f rs
          = (.published, rs ++
            [{ id := lossPoint n, state := .alert, group := lossGroup,
               firstOut := (options lossGroup).firstout && rs.all (fun r => r.group != lossGroup), silenced := false }]))
      ∧ (findRecord rs (lossPoint n) = none → 64 ≤ rs.length → filling = false →
        alarmSequence options lossGroup filling f rs = (.refused, rs))
      ∧ (findRecord rs (lossPoint n) ≠ none →
        alarmSequence options lossGroup filling f rs = (.published, rs.map fun r =>
          if r.id = lossPoint n ∧ (r.state = .lapsed ∨ r.state = .settled) then
            { r with state := .alert, silenced := false } else r))
      ∧ (findRecord rs (lossPoint n) = none → filling = true →
        alarmSequence options lossGroup filling f rs = (.ignored, rs)))
    ∧ (∀ reason d, f.body = .join reason d →
      alarmSequence options lossGroup filling f rs = (.notRaise, rs.filterMap fun r =>
        if r.id ≠ lossPoint f.sender then some r
        else match r.state with
          | .alert => if (options r.group).lockin then some { r with state := .lapsed } else none
          | .held => if (options r.group).autoclear then none else some { r with state := .settled, silenced := false }
          | _ => some r))
    ∧ ((∃ roll, f.body = .transferRoll roll) ∨ (∃ sd ld n, f.body = .presenceRoll sd ld n) →
      alarmSequence options lossGroup filling f rs = (.notRaise, rs))

/-- No accepted bulletin leaves a LAPSED record in a group without LOCKIN, or a SETTLED one in a group with AUTOCLEAR. -/
def Obligations.AlarmSequenceKeepsTheOptionLaw : Prop :=
  ∀ (options : Group → GroupOptions) (lossGroup : Group) (filling : Bool) (f : Frame) (rs : List Record),
    OptionLaw options rs → OptionLaw options (alarmSequence options lossGroup filling f rs).2

/-- After every accepted bulletin a marked record is the oldest of its FIRSTOUT group, so a group has at most one. -/
def Obligations.AlarmSequenceKeepsTheFirstOutLaw : Prop :=
  ∀ (options : Group → GroupOptions) (lossGroup : Group) (filling : Bool) (f : Frame) (rs : List Record),
    FirstOutLaw options rs → FirstOutLaw options (alarmSequence options lossGroup filling f rs).2

/-! Walks and transfer (01, 06). -/

/-- Whatever one bulletin removes, a walk's cursor stays where its record is still held, and otherwise leaves it and stands
on the nearest record before it that is still held, or before the head. -/
def Obligations.CursorMovesBackToTheNearestRemainingRecord : Prop :=
  ∀ (before after : List Record) (c : PointId),
    (before.map Record.id).Nodup → holds before c = true →
    (holds after c = true → repairCursor before after (some c) = some c)
    ∧ (holds after c = false → repairCursor before after (some c) ≠ some c)
    ∧ (∀ d, repairCursor before after (some c) = some d → d ≠ c →
        holds after c = false
        ∧ ∃ older r between r' newer, before = older ++ r :: between ++ r' :: newer ∧ r.id = d ∧ r'.id = c
          ∧ holds after d = true ∧ ∀ x ∈ between, holds after x.id = false)
    ∧ (repairCursor before after (some c) = none →
        ∃ older r' newer, before = older ++ r' :: newer ∧ r'.id = c
          ∧ holds after c = false ∧ ∀ x ∈ older, holds after x.id = false)
    ∧ repairCursor before after none = none

/-- Table 6-4: record, predecessor and last flag of a transfer roll at its start cell. -/
def Obligations.TransferRollCarriesTheSuccessorOfTheCursor : Prop :=
  ∀ (n : StationNo) (overflow : Bool) (rs : List Record), (rs.map Record.id).Nodup →
    rollOf n overflow [] none = { target := n, last := true, overflow, predecessor := none, record := none }
    ∧ (∀ head tail, rs = head :: tail →
        rollOf n overflow rs none
          = { target := n, last := tail.isEmpty, overflow, predecessor := none, record := some head })
    ∧ (∀ older c x tail, rs = older ++ c :: x :: tail →
        rollOf n overflow rs (some c.id)
          = { target := n, last := tail.isEmpty, overflow, predecessor := some c.id, record := some x })
    ∧ ∀ older c, rs = older ++ [c] →
        rollOf n overflow rs (some c.id)
          = { target := n, last := true, overflow, predecessor := some c.id, record := none }

/-- A joiner that holds what a walk has sent takes the walk's next roll without a transfer error, and then holds what the
walk has sent with its cursor on the record sent. -/
def Obligations.TakingARollKeepsTheJoinerEqualToWhatWasSent : Prop :=
  ∀ (n : StationNo) (overflow : Bool) (rs : List Record) (cursor : Option PointId),
    (rs.map Record.id).Nodup → rs.length ≤ 64 → CursorLaw rs cursor →
    let r := rollOf n overflow rs cursor
    let next := match r.record with
      | some x => some x.id
      | none => cursor
    takeRecord (sentPart rs cursor) r.predecessor r.record = some (sentPart rs next)
    ∧ CursorLaw rs next
    ∧ (r.last = true → sentPart rs next = rs)

/-- A bulletin accepted between two rolls leaves the filling joiner with what the walk has sent of the sender's new list,
the cursor repaired: a walk overtaken still arrives at the sender's list. -/
def Obligations.BulletinsWhileFillingKeepTheJoinerEqualToWhatWasSent : Prop :=
  ∀ (options : Group → GroupOptions) (lossGroup : Group) (f : Frame) (rs : List Record) (cursor : Option PointId),
    (rs.map Record.id).Nodup → rs.length ≤ 64 → CursorLaw rs cursor →
    let sender := (alarmSequence options lossGroup false f rs).2
    let joiner := (alarmSequence options lossGroup true f (sentPart rs cursor)).2
    joiner = sentPart sender (repairCursor rs sender cursor)
    ∧ CursorLaw sender (repairCursor rs sender cursor)

/-- Table 1-3: what a transfer roll's record does to a joiner's list, and where it is a transfer error. -/
def Obligations.TransferRollRecordIsReplacedInsertedOrAnError : Prop :=
  ∀ (rs : List Record) (pred : Option PointId) (x : Record), (rs.map Record.id).Nodup →
    takeRecord rs pred none = some rs
    ∧ (∀ older r newer, rs = older ++ r :: newer → r.id = x.id →
        takeRecord rs pred (some x) = some (older ++ x :: newer))
    ∧ (holds rs x.id = false → rs.length < 64 → pred = none → takeRecord rs pred (some x) = some (x :: rs))
    ∧ (∀ older p newer, rs = older ++ p :: newer → holds rs x.id = false → rs.length < 64 → pred = some p.id →
        takeRecord rs pred (some x) = some (older ++ p :: x :: newer))
    ∧ (holds rs x.id = false → (64 ≤ rs.length ∨ ∃ p, pred = some p ∧ holds rs p = false) →
        takeRecord rs pred (some x) = none)

/-! The outbox (03). -/

/-- The entry that a start takes is eligible, of the lowest precedence code among the eligible entries, and the oldest of
that code; a start takes none only when no entry is eligible. -/
def Obligations.StartTakesTheOldestEligibleEntryOfTheLowestCode : Prop :=
  ∀ o : Outbox,
    let eligible := fun (older : List Entry) (e : Entry) =>
      e.inFlight = false ∧ ∀ p, e.subject = .raise p ∨ e.subject = .ret p →
        ∀ x ∈ older, x.subject ≠ .raise p ∧ x.subject ≠ .ret p
    (o.choice = none ↔ ∀ older e newer, o.entries = older ++ e :: newer → ¬eligible older e)
    ∧ ∀ x, o.choice = some x →
      ∃ older e newer, o.entries = older ++ e :: newer ∧ e.subject = x ∧ eligible older e
        ∧ ∀ older' e' newer', o.entries = older' ++ e' :: newer' → eligible older' e' →
          x.code < e'.subject.code ∨ (x.code = e'.subject.code ∧ older.length ≤ older'.length)

/-- The table of R49: a transition offer by the point's newest entry. -/
def Obligations.TransitionOfferActsOnTheNewestEntry : Prop :=
  ∀ (o : Outbox) (p : LocalPoint) (k other : PointKind), k ≠ other →
    (o.ofPoint p = [] →
      o.transitionOffer k p = { o with entries := o.entries ++ [⟨k.subject p, false⟩] })
    ∧ (∀ older, o.ofPoint p = older ++ [⟨k.subject p, true⟩] ∨ o.ofPoint p = older ++ [⟨k.subject p, false⟩] →
        o.transitionOffer k p = o)
    ∧ (∀ older, o.ofPoint p = older ++ [⟨other.subject p, true⟩] →
        o.transitionOffer k p = { o with entries := o.entries ++ [⟨k.subject p, false⟩] })
    ∧ (∀ older, o.ofPoint p = older ++ [⟨other.subject p, false⟩] →
        o.transitionOffer k p = { o with entries := o.entries.filter fun e => e != ⟨other.subject p, false⟩ })

/-- Table 3-5: a pulse offer by the point's entries, oldest first, with the owed-pair flag clear; with the flag set it
changes nothing. -/
def Obligations.PulseOfferFoldsIntoThePointsEntries : Prop :=
  ∀ (o : Outbox) (p : LocalPoint),
    (o.owed[p] = true → o.pulseOffer p = o)
    ∧ (o.owed[p] = false →
      (o.ofPoint p = [] →
        o.pulseOffer p = { o with entries := o.entries ++ [⟨.raise p, false⟩, ⟨.ret p, false⟩] })
      ∧ (∀ b, o.ofPoint p = [⟨.raise p, b⟩] →
          o.pulseOffer p = { o with entries := o.entries ++ [⟨.ret p, false⟩] })
      ∧ (o.ofPoint p = [⟨.ret p, false⟩] ∨ (∃ b, o.ofPoint p = [⟨.raise p, b⟩, ⟨.ret p, false⟩]) → o.pulseOffer p = o)
      ∧ (o.ofPoint p = [⟨.ret p, false⟩, ⟨.raise p, false⟩] →
          o.pulseOffer p = { o with entries := o.entries.filter fun e => e != ⟨.raise p, false⟩ })
      ∧ (o.ofPoint p = [⟨.ret p, true⟩] →
          (o.pulseOffer p).entries = o.entries
          ∧ ∀ q : LocalPoint, (o.pulseOffer p).owed[q] = if q = p then true else o.owed[q])
      ∧ (o.ofPoint p = [⟨.ret p, true⟩, ⟨.raise p, false⟩] →
          (o.pulseOffer p).entries = o.entries.filter (fun e => e != ⟨.raise p, false⟩)
          ∧ ∀ q : LocalPoint, (o.pulseOffer p).owed[q] = if q = p then true else o.owed[q]))

/-! Supply, reset and start-up (10). -/

/-- Applied supply, lost supply and a driven RESET pin take every block to its reset values at once, keep the store, and
end what was in progress; only a power-on clears the diagnostic counters, no latch is set while a reset lasts, and a
selection under way is not served. The model's choices: that the blocks are there when the reset begins, not at its end (log
entry 24), that supply lost takes them there at once, and that POWER_ON resets in any state of the supply (log entry 17). -/
def Obligations.ResetsAndSupplyLossTakeEveryBlockToItsResetValues : Prop :=
  ∀ s : State,
    let selection := if s.port.selection = .idle then Selection.idle else .unserved
    (∃ t, exec .powerOn s = .next t ∧ t.power = .inReset .powerOn ∧ t.atResetValues ∧ t.station = .start
      ∧ t.settings = none ∧ t.port.latches.any = false ∧ t.store = s.store ∧ t.port.selection = selection
      ∧ ∀ c ∈ t.port.counters.toList, c = 0)
    ∧ (∃ t, exec .supplyLost s = .next t ∧ t.power = .off ∧ t.atResetValues ∧ t.station = .start
      ∧ t.settings = none ∧ t.port.latches.any = false ∧ t.store = s.store ∧ t.port.selection = selection)
    ∧ (s.power = .running →
      ∃ t, exec .pinReset s = .next t ∧ t.power = .inReset .pin ∧ t.atResetValues ∧ t.station = .start
        ∧ t.settings = none ∧ t.port.latches.any = false ∧ t.store = s.store ∧ t.port.selection = selection
        ∧ t.port.counters = s.port.counters)

/-- The end of a reset, and a RESTART taken with no burn running, leave every block at its reset values, the cause
recorded, STATE_CHANGED alone set, the NONE response in the slot, a selection that began before the end of the reset not
served, that of the RESTART over, the counters kept, and the station where the three tests of R164 put it: UNCOMMISSIONED with the cause of the first that fails, or START with every setting of Table 12-3 as
its cell gives it, and the settings digest. -/
def Obligations.EndOfAResetReadsTheStore : Prop :=
  ∀ (s : State) (c : Instr) (kind : ResetKind),
    (c = .resetEnd ∧ s.power = .inReset kind)
      ∨ (c = .restart ∧ kind = .restart ∧ s.serves ∧ s.session.phase ≠ .burning) →
    ∃ t, exec c s = .next t ∧ t.power = .running ∧ t.atResetValues ∧ t.port.cause = kind
      ∧ t.port.latches = { listChanged := false, presenceChanged := false, stateChanged := true, fault := false }
      ∧ t.port.slot = [1, 0] ∧ t.store = s.store ∧ t.port.counters = s.port.counters
      ∧ t.port.selection = (if c = .restart ∨ s.port.selection = .idle then .idle else .unserved)
      ∧ (s.store[25].getLsbD 0 = false → t.station = .uncommissioned .blank ∧ t.settings = none)
      ∧ (s.store[25].getLsbD 0 = true →
        let check := (s.store.toList.take 24).foldl (fun a b => a ^^^ b) 0
        let stray := s.store[0].getLsbD 7 = true ∨ 32 ≤ s.store[1].toNat ∨ 2 ≤ s.store[25].toNat
        (check ≠ s.store[24] → t.station = .uncommissioned .check ∧ t.settings = none)
        ∧ (check = s.store[24] → stray → t.station = .uncommissioned .format ∧ t.settings = none)
        ∧ (check = s.store[24] → ¬stray →
          t.station = .start
          ∧ ∃ u, t.settings = some u
            ∧ u.number.val = s.store[0].toNat % 32 ∧ u.rate.val = s.store[0].toNat / 32
            ∧ u.interval.val = s.store[1].toNat % 4 ∧ u.lossGroup.val = s.store[1].toNat / 4
            ∧ (∀ p : LocalPoint,
                let cell := s.store[2 + p.val]'(by omega)
                (u.points[p]).group.val = cell.toNat % 8 ∧ ((u.points[p]).mode = .pulse ↔ cell.getLsbD 3 = true)
                ∧ (u.points[p]).activeLow = cell.getLsbD 4 ∧ (u.points[p]).debounce.val = cell.toNat / 32)
            ∧ (∀ g : Group,
                let cell := s.store[10 + g.val / 2]'(by omega)
                let low := if g.val % 2 = 0 then 0 else 4
                (u.options[g]).lockin = cell.getLsbD low ∧ (u.options[g]).ringback = cell.getLsbD (low + 1)
                ∧ (u.options[g]).autoclear = cell.getLsbD (low + 2) ∧ (u.options[g]).firstout = cell.getLsbD (low + 3))
            ∧ u.coverage = s.store[14]
            ∧ (∀ n : Lamp,
                (u.windows[n]).toNat
                  = (s.store[15 + n.val]'(by omega)).toNat + (if s.store[23].getLsbD n.val = true then 256 else 0))
            ∧ u.digest = checkOf
                [BitVec.ofNat 8 u.rate.val, BitVec.ofNat 8 u.interval.val, BitVec.ofNat 8 u.lossGroup.val,
                  s.store[10], s.store[11], s.store[12], s.store[13]]))

/-- With no command waiting, a station in START holds there for 16,000 clock periods for each station number and one
more, and is in LISTEN after the last of them. That a step with no command waiting is one clock period is the model's
choice (log entry 2). -/
def Obligations.StartHoldLasts16000PeriodsForEachNumber : Prop :=
  ∀ s : State,
    s.power = .running → s.station = .start → s.pending = [] → s.session.phase = .closed →
    s.timebase = { clock := 0, sampleNext := false, flashTicks := 0, flashPhase := 0, rollTicks := 0, holdTicks := 0,
                   burnClocks := 0 } →
    (∀ k, k < 16000 * (s.own.val + 1) → (s.steps k).station = .start)
    ∧ (s.steps (16000 * (s.own.val + 1))).station = .listen 0

/-- The end of the start hold begins LISTEN, counted from here; the third boundary of LISTEN and the sixty-fourth of MUTED
enter JOINING with reasons START and UNMUTE, the exit from MUTED with strike count 0. A received frame that is checked or
ends while the end of a timer is due is checked or ends as after that end (log entry 20). -/
def Obligations.StartHoldListenAndMutedEndInTheirNextStates : Prop :=
  ∀ s : State, s.power = .running →
    (s.station = .start →
      exec .startHoldEnd s = .next
        { s with
          station := .listen 0
          line := { s.line with cellClock := 0 }
          timebase := { s.timebase with rollTicks := 0 }
          port := { s.port with latches := { s.port.latches with stateChanged := true } } })
    ∧ (s.station = .listen 3 →
      ∃ t, exec .listenEnd s = .next t ∧ s.joinsWith t .start ∧ t.port.counters = s.port.counters)
    ∧ (∀ lost, s.station = .muted 64 lost →
      ∃ t, exec .mutedTimerExpiry s = .next t ∧ s.joinsWith t .unmute ∧ t.port.counters = s.port.counters)
    ∧ ∀ (c : Instr) (t : State) (x : InFrame),
      (c = .listenEnd ∧ s.station = .listen 3)
        ∨ (c = .transferTimeout ∧ (s.station = .joining (.admitted 4) ∨ s.station = .joining (.filling 4)))
        ∨ (c = .mutedTimerExpiry ∧ ∃ lost, s.station = .muted 64 lost) →
      exec c s = .next t → s.line.frame = some x → x.role = .receiver →
      (∀ slots, x.heard ≠ .unchecked → s.line.held ≤ 8 →
        exec (.receivedFrameOutcome slots) s = exec (.receivedFrameOutcome slots) t)
      ∧ ∀ cells, x.heard = .unchecked → cells.length = 10 * bytesRead cells → runReaches 0 cells = false →
        exec (.frameChecked cells) s = exec (.frameChecked cells) t

/-- A transfer timeout empties the list, makes the phase asking and queues a JOIN with reason RETRY; line count, strike
count, presence table and diagnostic counters are kept. A peer's frame that ends after the fourth boundary, a roll for the
joiner among them, finds the station asking, whether TRANSFER_TIMEOUT has come or not, and is not taken. -/
def Obligations.TransferTimeoutAsksAgainWithReasonRetry : Prop :=
  ∀ s : State, s.power = .running → s.outbox.entries = [] →
    (s.station = .joining (.admitted 4) ∨ s.station = .joining (.filling 4)) →
    ∃ t, exec .transferTimeout s = .next t ∧ t.station = .joining .asking
      ∧ t.annList = { records := [], overflow := false, walks := [] }
      ∧ t.outbox.entries = [⟨.join .retry, false⟩]
      ∧ t.lineCount = s.lineCount ∧ t.line = s.line ∧ t.presence = s.presence ∧ t.points = s.points
      ∧ t.port.counters = s.port.counters ∧ t.port.latches.stateChanged = true ∧ s.sameOutside t
      ∧ ∀ (f : Frame) (slots : Slots) (cell : Nat) (drive : Option Slot), s.line.held = 0 → f.sender ≠ s.own →
        s.line.frame = some { cell := cell, role := .receiver, heard := .wellFormed f, drive := drive } →
        ∃ l, t.line.leftFrame l ∧ exec (.receivedFrameOutcome slots) s = .next { t with line := l }
          ∧ exec (.receivedFrameOutcome slots) t = .next { t with line := l }

/-! Ticks, field points and panel (08, 09). -/

/-- At a sample tick of a station in service every point and every button compares its sample with its level: an equal
sample ends the run, a differing one lengthens it, and the one that completes it makes the change due (the `due` mark
is the model's, log entry 7). Out of service nothing is sampled. The tick is a base tick, counted by the flash phase, the
roll interval and the start hold; the base tick before it, where the idle clock has not counted it, passes with it (log
entry 2). -/
def Obligations.SampleTickRunsEveryPointAndButton : Prop :=
  ∀ (s : State) (fields : BitVec 8) (buttons : BitVec 4), s.power = .running →
    let ticks := if s.timebase.sampleNext = true then 1 else 2
    ∃ t, exec (.sampleTick fields buttons) s = .next t
      ∧ t = { s with
              points := t.points, buttons := t.buttons
              pins := { s.pins with fields := fields, buttons := buttons }
              timebase := { s.timebase with
                clock := 0, sampleNext := false
                flashTicks := s.timebase.flashTicks + ticks
                rollTicks := if s.station.inService = true then s.timebase.rollTicks + ticks else s.timebase.rollTicks
                holdTicks := if s.station = .start then s.timebase.holdTicks + ticks else s.timebase.holdTicks } }
      ∧ (s.station.inService = false → t.points = s.points ∧ t.buttons = s.buttons)
      ∧ (s.station.inService = true →
        (∀ p : LocalPoint,
          let e := s.points[p]
          let count := (s.inUse.points[p]).debounce.val + 1
          let abnormal := fields.getLsbD p.val != (s.inUse.points[p]).activeLow
          (e.due = true → t.points[p] = e)
          ∧ (e.due = false → abnormal = e.abnormal → t.points[p] = { e with run := 0 })
          ∧ (e.due = false → abnormal ≠ e.abnormal → e.run + 1 < count → t.points[p] = { e with run := e.run + 1 })
          ∧ (e.due = false → abnormal ≠ e.abnormal → count ≤ e.run + 1 → t.points[p] = { e with run := 0, due := true }))
        ∧ ∀ b : Button,
          let e := s.buttons.get b
          let pressed := !buttons.getLsbD (buttonIndex b)
          (e.due = true → t.buttons.get b = e)
          ∧ (e.due = false → pressed = e.pressed → t.buttons.get b = { e with run := 0 })
          ∧ (e.due = false → pressed ≠ e.pressed → e.run + 1 < 8 → t.buttons.get b = { e with run := e.run + 1 })
          ∧ (e.due = false → pressed ≠ e.pressed → 8 ≤ e.run + 1 → t.buttons.get b = { e with run := 0, due := true }))

/-- A debounced transition turns the level, sets the caught latch toward ABNORMAL in every state, and is offered while the
station is ACTIVE: a LEVEL point's as a transition offer, or as a pulse offer where a RETURN meets a pending RAISE, a
PULSE point's as a pulse offer toward ABNORMAL only. -/
def Obligations.DebouncedTransitionSetsTheLatchAndIsOffered : Prop :=
  ∀ (s : State) (p : LocalPoint), s.inService = true → (s.points[p]).due = true →
    ∃ t, exec (.debouncedTransition p) s = .next t
      ∧ t = { s with points := t.points, outbox := t.outbox }
      ∧ t.points[p] = { s.points[p] with
          run := 0, due := false
          abnormal := !(s.points[p]).abnormal
          caught := (s.points[p]).caught || !(s.points[p]).abnormal }
      ∧ (∀ q : LocalPoint, q ≠ p → t.points[q] = s.points[q])
      ∧ (s.station ≠ .active → t.outbox = s.outbox)
      ∧ (s.station = .active →
        ((s.inUse.points[p]).mode = .level → (s.points[p]).abnormal = false →
          t.outbox = s.outbox.transitionOffer .raise p)
        ∧ ((s.inUse.points[p]).mode = .level → (s.points[p]).abnormal = true →
          (s.outbox.newest p = some ⟨.raise p, false⟩ → t.outbox = s.outbox.pulseOffer p)
          ∧ (s.outbox.newest p ≠ some ⟨.raise p, false⟩ → t.outbox = s.outbox.transitionOffer .ret p))
        ∧ ((s.inUse.points[p]).mode = .pulse → (s.points[p]).abnormal = false → t.outbox = s.outbox.pulseOffer p)
        ∧ ((s.inUse.points[p]).mode = .pulse → (s.points[p]).abnormal = true → t.outbox = s.outbox))

/-- Tables 8-3 and 8-4: what reconciliation republishes for each point, by mode, level, caught latch and record, and what
it leaves of the latch and of WAITING, at an ACTIVE station. -/
def Obligations.ReconciliationRepublishesByTables83And84 : Prop :=
  ∀ (s : State) (p : LocalPoint), s.station = .active → (s.annList.records.map Record.id).Nodup →
    let e := s.points[p]
    let shown := ∃ r ∈ s.annList.records, r.id = fieldPoint s.own p ∧ (r.state = .alert ∨ r.state = .held)
    let level := (s.inUse.points[p]).mode = .level
    let t := s.reconcilePoint p
    let others := s.outbox.entries.filter fun x => !x.subject.ofPoint p
    (t = { s with points := t.points, outbox := t.outbox }
      ∧ (∀ q : LocalPoint, q ≠ p → t.points[q] = s.points[q])
      ∧ (t.points[p]).waiting = false ∧ (t.points[p]).abnormal = e.abnormal)
    ∧ (shown → (t.points[p]).caught = false) ∧ (¬shown → (t.points[p]).caught = e.caught)
    ∧ (level → e.abnormal = true → shown → t.outbox = s.outbox)
    ∧ (level → e.abnormal = true → ¬shown → t.outbox.entries = others ++ [⟨.raise p, false⟩])
    ∧ ((level → e.abnormal = false) → shown → t.outbox.entries = others ++ [⟨.ret p, false⟩])
    ∧ ((level → e.abnormal = false) → ¬shown → e.caught = true →
        t.outbox.entries = others ++ [⟨.raise p, false⟩, ⟨.ret p, false⟩])
    ∧ ((level → e.abnormal = false) → ¬shown → e.caught = false → t.outbox = s.outbox)

/-- A debounced change of a button turns its level; one of ACK, SILENCE or CLEAR to PRESSED, and a PRESS request naming
one, offers that group action while the station is ACTIVE and its coverage is not empty, and is discarded otherwise. A
pending entry of the kind absorbs the offer; TEST, and a release, offer nothing. -/
def Obligations.PressOffersItsGroupActionWhileActiveAndCovering : Prop :=
  ∀ s : State,
    let offered := fun (x : Subject) =>
      if s.station = .active ∧ s.inUse.coverage ≠ 0 ∧ (⟨x, false⟩ : Entry) ∉ s.outbox.entries then
        { s.outbox with entries := s.outbox.entries ++ [⟨x, false⟩] }
      else s.outbox
    (∀ b : Button, s.inService = true → (s.buttons.get b).due = true →
      ∃ t, exec (.buttonDebouncedChange b) s = .next t
        ∧ t = { s with buttons := t.buttons, outbox := t.outbox }
        ∧ t.buttons.get b = { run := 0, pressed := !(s.buttons.get b).pressed, due := false }
        ∧ (∀ c : Button, c ≠ b → t.buttons.get c = s.buttons.get c)
        ∧ ((s.buttons.get b).pressed = true ∨ b = .test → t.outbox = s.outbox)
        ∧ ((s.buttons.get b).pressed = false →
          (b = .ack → t.outbox = offered .ack) ∧ (b = .silence → t.outbox = offered .silence)
          ∧ (b = .clear → t.outbox = offered .clear)))
    ∧ ∀ button : Byte, s.serves → s.session.phase ≠ .burning →
      ∃ t, exec (.press button) s = .next t
        ∧ t = { s with outbox := t.outbox, port := t.port }
        ∧ t.port.latches = s.port.latches ∧ t.port.counters = s.port.counters ∧ t.port.cause = s.port.cause
        ∧ (button.toNat = 0 ∨ 3 < button.toNat → s.answered t [6, 8] ∧ t.outbox = s.outbox)
        ∧ (1 ≤ button.toNat → button.toNat ≤ 3 →
          s.answered t [if s.station = .active then 0 else 3, 8]
          ∧ (button = 1 → t.outbox = offered .ack) ∧ (button = 2 → t.outbox = offered .silence)
          ∧ (button = 3 → t.outbox = offered .clear))

/-- The panel at any moment: HORN, CHIME and COMMON from the records of the covered groups; FAULT from its four conditions;
the pattern of every lamp from the record of its mapped point, all lamps STEADY while TEST is held; and the output of
every lamp by its pattern at the flash phase, which FLASH_PHASE_ADVANCE steps from 7 back to 0, with base ticks counted
beyond the 125th kept for the next (log entry 2). Without supply no lamp and no FAULT is driven (log entry 17). -/
def Obligations.PanelFollowsTheListCoverageAndFlashPhase : Prop :=
  ∀ s : State,
    (s.horn = true ↔ ∃ r ∈ s.annList.records, s.inUse.coverage.getLsbD r.group.val = true
        ∧ (r.state = .alert ∨ r.state = .lapsed) ∧ r.silenced = false)
    ∧ (s.chime = true ↔ ∃ r ∈ s.annList.records, s.inUse.coverage.getLsbD r.group.val = true
        ∧ (s.inUse.options[r.group]).ringback = true ∧ r.state = .settled ∧ r.silenced = false)
    ∧ (s.common = true ↔ ∃ r ∈ s.annList.records, s.inUse.coverage.getLsbD r.group.val = true
        ∧ (r.state = .alert ∨ r.state = .lapsed))
    ∧ (s.faultOn = false ↔ s.station = .active ∧ s.annList.overflow = false
        ∧ (∀ r ∈ s.annList.records, r.id.val < 256) ∧ ∀ p : LocalPoint, (s.points[p]).waiting = false)
    ∧ (s.faultOutput = true ↔ s.power ≠ .off ∧ s.faultOn = true)
    ∧ (∀ n : Lamp,
        (s.buttons.test.pressed = true → s.lampPattern n = .steady)
        ∧ (s.buttons.test.pressed = false →
          (s.settings = none → s.lampPattern n = .off)
          ∧ ∀ c, s.settings = some c →
            (287 < (c.windows[n]).toNat → s.lampPattern n = .off)
            ∧ ∀ p : PointId, (c.windows[n]).toNat = p.val →
              (findRecord s.annList.records p = none → s.lampPattern n = .off)
              ∧ ∀ r, findRecord s.annList.records p = some r →
                s.lampPattern n
                  = (match r.state with
                    | .alert => .fast
                    | .lapsed => .fast
                    | .held => if r.firstOut then .wink else .steady
                    | .settled => .slow)))
    ∧ (∀ n : Lamp,
        s.lampOn n = true ↔ s.power ≠ .off
          ∧ s.timebase.flashPhase ∈ (match s.lampPattern n with
            | .off => ([] : List (Fin 8))
            | .steady => [0, 1, 2, 3, 4, 5, 6, 7]
            | .fast => [0, 2, 4, 6]
            | .slow => [0, 1, 2, 3]
            | .wink => [0, 1, 2, 3, 4, 5, 6]))
    ∧ (s.power = .running →
      exec .flashPhaseAdvance s = .next
        { s with
          timebase :=
            { s.timebase with
              flashTicks := s.timebase.flashTicks - 125
              flashPhase := if s.timebase.flashPhase = 7 then 0 else s.timebase.flashPhase + 1 } })

/-! Boundaries and limits (07, 10). -/

/-- A roll-interval boundary is counted by what counts in the station's state: the silence counter of every JOINING and
ACTIVE entry, to 8; the quiet counter while ACTIVE, to 2; LISTEN's boundaries, a joiner's transfer timer and the MUTED
timer. Entry states, list and line do not change. The model's choices: base ticks counted beyond the interval are kept for
the next (log entry 2); a counter at its limit is marked due until its command takes it (log entry 7); the silence counters
go on in MUTED with step lost, where R91 says that the presence table stays as it was (log entry 22). -/
def Obligations.BoundaryAdvancesTheCountersThatRun : Prop :=
  ∀ s : State, s.inService = true →
    ∃ t, exec .rollIntervalBoundary s = .next t
      ∧ t = { s with
              station := t.station, presence := t.presence
              timebase := { s.timebase with
                rollTicks := s.timebase.rollTicks
                  - (match s.inUse.interval with | 0 => 100 | 1 => 250 | 2 => 500 | 3 => 1000) } }
      ∧ (∀ n : StationNo,
        let e := s.presence.peers[n]
        let e' := t.presence.peers[n]
        e'.state = e.state
        ∧ (e.state = .joining ∨ e.state = .active →
          e'.silence = min 8 (e.silence + 1) ∧ (e'.due = true ↔ e'.silence = 8))
        ∧ (e.state ≠ .joining ∧ e.state ≠ .active → e'.silence = e.silence ∧ e'.due = false))
      ∧ (s.station = .active →
        t.station = .active ∧ t.presence.quiet = min 2 (s.presence.quiet + 1)
        ∧ (t.presence.quietDue = true ↔ t.presence.quiet = 2))
      ∧ (s.station ≠ .active → t.presence.quiet = s.presence.quiet ∧ t.presence.quietDue = false)
      ∧ (∀ n, s.station = .listen n → t.station = .listen (min 3 (n + 1)))
      ∧ (s.station = .joining .asking → t.station = .joining .asking)
      ∧ (∀ k, s.station = .joining (.admitted k) → t.station = .joining (.admitted (min 4 (k + 1))))
      ∧ (∀ k, s.station = .joining (.filling k) → t.station = .joining (.filling (min 4 (k + 1))))
      ∧ (∀ k lost, s.station = .muted k lost → t.station = .muted (min 64 (k + 1)) lost)
      ∧ (s.station = .discord → t.station = .discord)

/-- At a boundary that leaves a peer's counter at 8, and the quiet counter at 2, a LOSS naming the peer and a presence roll
are offered: taken while the station is ACTIVE, but the LOSS not where one naming the peer or a transfer roll for it
waits or flies, and the roll not where one is there. The mark that a limit is due is the model's (log entry 7). -/
def Obligations.LimitsOfferALossAndAPresenceRoll : Prop :=
  ∀ s : State, s.inService = true →
    (∀ n : StationNo, n ≠ s.own → (s.presence.peers[n]).due = true → (s.presence.peers[n]).silence = 8 →
      ((s.presence.peers[n]).state = .joining ∨ (s.presence.peers[n]).state = .active) →
      ∃ t, exec (.silenceLimit n) s = .next t
        ∧ t = { s with presence := t.presence, outbox := t.outbox }
        ∧ (t.presence.peers[n]) = { s.presence.peers[n] with due := false }
        ∧ (∀ m : StationNo, m ≠ n → t.presence.peers[m] = s.presence.peers[m]) ∧ t.presence.quiet = s.presence.quiet
        ∧ t.outbox =
          if s.station = .active ∧ s.outbox.has (.loss n) = false ∧ s.outbox.has (.transferRoll n) = false then
            { s.outbox with entries := s.outbox.entries ++ [⟨.loss n, false⟩] }
          else s.outbox)
    ∧ (s.presence.quietDue = true → s.presence.quiet = 2 →
      ∃ t, exec .quietCounterLimit s = .next t
        ∧ t = { s with presence := { s.presence with quietDue := false }, outbox := t.outbox }
        ∧ t.outbox =
          if s.station = .active ∧ s.outbox.has .presenceRoll = false then
            { s.outbox with entries := s.outbox.entries ++ [⟨.presenceRoll, false⟩] }
          else s.outbox)

/-! The line outside and inside a frame (04). -/

/-- Outside a frame: the gap count stops at 24 and frames the station; a dominant cell at the follow threshold (11 framed,
12 unframed) begins a frame that a station without an own start receives; one below it returns the gap count to 0 and
lengthens the held run; the end of a held run leaves gap count 0 and the station framed. `n` recessive cells are read
before each (log entry 8). That the gap count stands at 0 inside the frame (log entry 9), and where the count of clock periods
in a cell starts again (log entry 3), are the model's choices. -/
def Obligations.CellsOutsideAFrameCountBeginAFrameOrEndTheHeldRun : Prop :=
  ∀ (s : State) (n : Nat), s.inService = true →
    let gap := min 24 (s.line.gap + n)
    let framed := s.line.framed = true ∨ gap = 24
    let run := if n = 0 then s.line.held else 0
    (s.line.frame = none → s.line.held < 12 →
      (s.line.framed = false →
        exec .gapFramed s = .next { s with line := { s.line with gap := 24, held := 0, framed := true } })
      ∧ (12 ≤ gap ∨ (framed ∧ 11 ≤ gap) → ¬framed ∨ s.outbox.choice = none →
        exec (.anothersStart n) s = .next
          { s with
            line :=
              { s.line with
                gap := 0, held := 1, framed := true, cellClock := 0
                frame := some { cell := 0, role := .receiver, heard := .unchecked, drive := none } } })
      ∧ (gap < 11 ∨ (¬framed ∧ gap < 12) → run + 1 < 12 →
        exec (.dominantCellNotAStart n) s = .next { s with line := { s.line with gap := 0, held := run + 1 } }))
    ∧ (s.line.held = 12 →
      exec .lineHeldEnd s = .next
        { s with line := { s.line with gap := 0, held := 0, framed := true, cellClock := 0 } })

/-- At its own start the station takes the chosen entry in flight, becomes transmitter at the lead cell, and sends the
content that Table 3-6 takes from the state of that moment. That the gap count stands at 0 inside the frame (log entry 9), and
that the count of clock periods in a cell starts again there (log entry 3), are the model's choices. -/
def Obligations.OwnStartSendsTheChosenEntryAssembledNow : Prop :=
  ∀ (s : State) (n : Nat) (x : Subject),
    s.inService = true → s.line.frame = none → s.line.held < 12 →
    11 ≤ s.line.gap + n → (s.line.framed = true ∨ 24 ≤ s.line.gap + n) → s.outbox.choice = some x →
    ∃ t f older newer, exec (.ownStart n) s = .next t
      ∧ t = { s with line := t.line, outbox := t.outbox }
      ∧ t.line = { s.line with
          gap := 0, held := 0, framed := true, cellClock := 0
          frame := some { cell := 0, role := .transmitter f, heard := .unchecked, drive := none } }
      ∧ s.outbox.entries = older ++ ⟨x, false⟩ :: newer
      ∧ t.outbox = { s.outbox with entries := older ++ ⟨x, true⟩ :: newer }
      ∧ f.sender = s.inUse.number
      ∧ f.count = (match x with | .join _ => 0 | _ => s.lineCount)
      ∧ match x with
        | .raise p => f.body = .raise p (s.inUse.points[p]).group
        | .loss k => f.body = .loss k
        | .ret p => f.body = .ret p (s.inUse.points[p]).group
        | .ack => f.body = .ack s.inUse.coverage
        | .silence => f.body = .silence s.inUse.coverage
        | .clear => f.body = .clear s.inUse.coverage
        | .presenceRoll =>
          ∃ length, f.body = .presenceRoll s.inUse.digest (listDigestOf s.annList.records) length
            ∧ (s.annList.records.length ≤ 64 → length.val = s.annList.records.length)
        | .transferRoll k =>
          ∀ older w newer, s.annList.walks = older ++ w :: newer → w.target = k → (∀ v ∈ older, v.target ≠ k) →
            f.body = .transferRoll (rollOf k s.annList.overflow s.annList.records w.cursor)
        | .join r => f.body = .join r s.inUse.digest

/-- A transmitter that reads dominant where it sends recessive in the precedence byte becomes a receiver and its entry
lands; one that reads back another level in any other cell will drive VETO; a held run of 12 abandons the frame, lands
the entry and is counted. A landed entry is pending in its place, a newer pending group action of its kind is
withdrawn, and a RETURN's owed pair is offered again. -/
def Obligations.ArbitrationLossCollisionAndHeldLineEndTheTransmission : Prop :=
  ∀ s : State, s.inService = true →
    (∀ (f : Frame) (at0 : Nat) (heard : Heard) (drive : Option Slot),
      s.line.frame = some { cell := at0, role := .transmitter f, heard := heard, drive := drive } →
      (∀ cell : Fin 8, at0 ≤ cell.val + 1 →
        (BitVec.ofNat 8 (f.body.code * 32 + f.sender.val)).getLsbD (7 - cell.val) = true →
        exec (.arbitrationLost cell) s = .next
          { s with
            line := { s.line with
              frame := some { cell := cell.val + 1, role := .receiver, heard := heard, drive := drive } }
            outbox := s.outbox.land })
      ∧ ∀ cell : Nat, at0 ≤ cell → cell < 10 * frameLength f.body.code →
        (1 ≤ cell → cell ≤ 8 →
          (BitVec.ofNat 8 (f.body.code * 32 + f.sender.val)).getLsbD (8 - cell) = false) →
        exec (.collision cell) s = .next
          { s with
            line := { s.line with
              frame := some { cell := cell, role := .collided f, heard := heard, drive := some .veto } } })
    ∧ (s.line.held < 12 →
      exec .lineHeld s = .next
        { s with
          line := { s.line with gap := 0, held := 12, frame := none }
          outbox := s.outbox.land
          port := { s.port with
            counters := { s.port.counters with lineHeld := counted s.port.counters.lineHeld } } })
    ∧ ∀ (o : Outbox) (older newer : List Entry) (x : Subject),
      o.entries = older ++ ⟨x, true⟩ :: newer → (∀ e ∈ older, e.inFlight = false) →
      ((x = .ack ∨ x = .silence ∨ x = .clear) →
        o.land = { o with entries := older ++ ⟨x, false⟩ :: newer.filter fun e => e != ⟨x, false⟩ })
      ∧ (x ≠ .ack → x ≠ .silence → x ≠ .clear → (∀ p : LocalPoint, x = .ret p → o.owed[p] = false) →
        o.land = { o with entries := older ++ ⟨x, false⟩ :: newer })
      ∧ ∀ p : LocalPoint, x = .ret p → o.owed[p] = true →
        ∃ o' : Outbox, o'.entries = older ++ ⟨x, false⟩ :: newer
          ∧ (∀ q : LocalPoint, o'.owed[q] = if q = p then false else o.owed[q]) ∧ o.land = o'.pulseOffer p

/-- A receiver, or a sender that met a collision, checks an undisturbed frame, no timer's end being due: it is counted as heard, clears its sender's
silence counter, withdraws a pending LOSS naming it and notes it while listening or asking; only an ACTIVE receiver
forms a verdict; a collided sender drives VETO in the cell its own kind places, counted here where that cell comes by the
end of the check (log entry 16); in LISTEN the own number takes the station to DISCORD. That the sender's silence counter
clears in MUTED with step lost too, where R91 says that the presence table stays as it was, is the model's choice (log
entry 22). -/
def Obligations.WellFormedFrameIsHeardAndJudged : Prop :=
  ∀ (s : State) (f : Frame) (cell : Nat) (role : Role) (drive : Option Slot),
    s.inService = true → s.station.timerOver = false → f.wellFormed →
    s.line.frame = some { cell := cell, role := role, heard := .unchecked, drive := drive } →
    (role = .receiver ∨ ∃ g, role = .collided g) →
    ∃ t x, exec (.frameChecked (frameCells f)) s = .next t
      ∧ t.line = { s.line with held := 0, frame := some x }
      ∧ x.role = role ∧ x.heard = .wellFormed f
      ∧ x.drive
        = (match role with
          | .receiver => if s.station = .active then some (s.verdict f) else none
          | _ => some .veto)
      ∧ t.port.counters
        = { s.port.counters with
            goodFrames := counted s.port.counters.goodFrames
            vetosDriven :=
              match role with
              | .collided g =>
                if cell < 10 * frameLength g.body.code ∧ frameLength g.body.code ≤ frameLength f.body.code then
                  counted s.port.counters.vetosDriven
                else s.port.counters.vetosDriven
              | _ => s.port.counters.vetosDriven }
      ∧ t.annList.records = s.annList.records ∧ t.annList.overflow = s.annList.overflow
      ∧ t.lineCount = s.lineCount ∧ t.points = s.points ∧ t.presence.quiet = s.presence.quiet ∧ s.sameOutside t
      ∧ ((∃ n, s.station = .listen n) → f.sender = s.own → t.station = .discord ∧ t.outbox.entries = [])
      ∧ ((∀ n, s.station ≠ .listen n) ∨ f.sender ≠ s.own →
        t.station = s.station ∧ t.annList.walks = s.annList.walks
        ∧ t.outbox = { s.outbox with
            entries := s.outbox.entries.filter fun e => decide (f.sender = s.own) || e != ⟨.loss f.sender, false⟩ })
      ∧ (∀ n : StationNo, n ≠ f.sender ∨ n = s.own → t.presence.peers[n] = s.presence.peers[n])
      ∧ (f.sender ≠ s.own →
        (t.presence.peers[f.sender]).silence = 0
        ∧ ((∃ n, s.station = .listen n) ∨ s.station = .joining .asking →
          t.peerState f.sender
            = (match s.peerState f.sender with
              | .absent => if f.isJoin then .joining else .active
              | .joining => if f.isJoin then .joining else .active
              | other => other))
        ∧ ((∀ n, s.station ≠ .listen n) → s.station ≠ .joining .asking → t.peerState f.sender = s.peerState f.sender))

/-- A format error, found while no timer's end is due, is heard from no one: a receiver in LISTEN, JOINING or ACTIVE drives and counts VETO (log entry 21), one
in MUTED or DISCORD drives nothing, a sender that met a collision drives its VETO in the cell its own kind places, counted
here where that cell comes by the end of the check (log entry 16), and nothing else of the station changes. -/
def Obligations.FormatErrorDrawsVetoAndIsHeardFromNoOne : Prop :=
  ∀ (s : State) (cells : List Level) (cell : Nat) (role : Role) (drive : Option Slot),
    s.inService = true → s.station.timerOver = false →
    s.line.frame = some { cell := cell, role := role, heard := .unchecked, drive := drive } →
    cells.length = 10 * bytesRead cells → readFrame cells = none → runReaches 0 cells = false →
    let seen := fun (slot : Option Slot) =>
      { s.line with
        held := runAfter 0 cells
        frame := some { cell := cells.length, role := .receiver, heard := .formatError, drive := slot } }
    (role = .receiver → (∃ n, s.station = .listen n) ∨ (∃ phase, s.station = .joining phase) ∨ s.station = .active →
      exec (.frameChecked cells) s = .next
        { s with
          line := seen (some .veto)
          port := { s.port with
            counters := { s.port.counters with vetosDriven := counted s.port.counters.vetosDriven } } })
    ∧ (role = .receiver → (∃ k lost, s.station = .muted k lost) ∨ s.station = .discord →
      exec (.frameChecked cells) s = .next { s with line := seen none })
    ∧ ∀ g, role = .collided g →
      let after := max cell cells.length
      exec (.frameChecked cells) s = .next
        { s with
          line := { s.line with
            held := runAfter 0 cells
            frame := some { cell := after, role := role, heard := .formatError, drive := some .veto } }
          port := { s.port with
            counters := { s.port.counters with
              vetosDriven :=
                if cell < 10 * frameLength g.body.code ∧ 10 * frameLength g.body.code ≤ after then
                  counted s.port.counters.vetosDriven
                else s.port.counters.vetosDriven } } }

/-- Table 5-1: the verdict of an ACTIVE receiver, row by row. -/
def Obligations.VerdictFollowsTable51 : Prop :=
  ∀ (s : State) (f : Frame),
    (s.verdict f = .agree ∨ s.verdict f = .step)
    ∧ (∀ r d, f.body = .join r d → (s.verdict f = .agree ↔ d = s.inUse.digest))
    ∧ ((∀ r d, f.body ≠ .join r d) →
      (f.sender ≠ s.own → s.peerState f.sender = .silent ∨ s.peerState f.sender = .discord → s.verdict f = .step)
      ∧ (f.sender = s.own ∨ (s.peerState f.sender ≠ .silent ∧ s.peerState f.sender ≠ .discord) →
        (∀ sd ld n, f.body = .presenceRoll sd ld n →
          (s.verdict f = .agree
            ↔ f.count = s.lineCount ∧ sd = s.inUse.digest ∧ ld = listDigestOf s.annList.records))
        ∧ ((∀ sd ld n, f.body ≠ .presenceRoll sd ld n) → (s.verdict f = .agree ↔ f.count = s.lineCount))))

/-! The outcome at the sender (04, 05, 06). -/

/-- A vetoed or unheard own frame adds a strike and a count and changes no list, line count, presence entry or quiet
counter; below 16 strikes its entry is pending again, and at 16 the station enters MUTED with the outbox cleared, the
walks discarded and one mute counted. The own VETO of a sender that met a collision voids its frame whatever the slots,
and is counted by the end of its frame (log entry 16). -/
def Obligations.VoidedOwnFrameStrikesAndMutesAtSixteen : Prop :=
  ∀ (s : State) (f : Frame) (slots : Slots) (awaits : Bool),
    ((s.hasSent f ∧ awaits = false
        ∧ (slots.veto = .dominant
          ∨ (slots = ⟨.recessive, .recessive, .recessive⟩ ∧ ∃ n, n ≠ s.own ∧ s.peerState n = .active)))
      ∨ s.hasCollided f awaits) →
    ∃ t, exec (.ownFrameOutcome slots) s = .next t
      ∧ t.line.frame = none ∧ t.line.framed = true ∧ t.line.gap = 0 ∧ t.line.strikes = s.line.strikes + 1
      ∧ t.annList.records = s.annList.records ∧ t.annList.overflow = s.annList.overflow
      ∧ t.lineCount = s.lineCount ∧ t.presence = s.presence ∧ t.points = s.points ∧ s.sameOutside t
      ∧ t.port.counters
        = { s.port.counters with
            ownVoided := counted s.port.counters.ownVoided
            vetosDriven :=
              if awaits = true then counted s.port.counters.vetosDriven else s.port.counters.vetosDriven
            mutes := if s.line.strikes < 15 then s.port.counters.mutes else counted s.port.counters.mutes }
      ∧ (s.line.strikes < 15 →
        t.station = s.station ∧ t.annList.walks = s.annList.walks ∧ t.outbox = s.outbox.land
        ∧ t.port.latches = s.port.latches)
      ∧ (15 ≤ s.line.strikes →
        t.station = .muted 0 false ∧ t.annList.walks = [] ∧ t.outbox.entries = []
        ∧ (∀ p : LocalPoint, t.outbox.owed[p] = false) ∧ t.port.latches.stateChanged = true)

/-- An own bulletin other than a JOIN, accepted by AGREE or lone, takes a strike off, leaves the outbox, clears the quiet
counter, advances the line count and acts on the own list; one that removes a record repairs every walk's cursor; a
RAISE is reported to its point; a removal requeues the WAITING points and the SILENT peers left without a record; the
sender of a transfer roll moves its walk on, or ends it at the last roll; the presence table changes by Table 7-3. A LOSS
naming the station itself is another statement's. An entry that leaves the outbox takes only itself, and a RETURN's owed pair
is then offered again. The model's choices: the entry of a sender that its own LOSS or transfer roll names (log entry 12), and
that the points' offers come before the peers' (log entry 13). -/
def Obligations.AcceptedOwnBulletinIsAppliedAndLeavesTheOutbox : Prop :=
  (∀ (o : Outbox) (older newer : List Entry) (x : Subject),
    o.entries = older ++ ⟨x, true⟩ :: newer → (∀ e ∈ older, e.inFlight = false) →
    ((∀ p : LocalPoint, x = .ret p → o.owed[p] = false) → o.depart = { o with entries := older ++ newer })
    ∧ ∀ p : LocalPoint, x = .ret p → o.owed[p] = true →
      ∃ o' : Outbox, o'.entries = older ++ newer
        ∧ (∀ q : LocalPoint, o'.owed[q] = if q = p then false else o.owed[q]) ∧ o.depart = o'.pulseOffer p)
  ∧ ∀ (s : State) (f : Frame) (slots : Slots), s.hasSent f → s.station = .active → f.isJoin = false →
    f.body ≠ .loss s.own →
    ((slots.agree = .dominant ∧ slots.veto = .recessive)
      ∨ (slots = ⟨.recessive, .recessive, .recessive⟩ ∧ ∀ n, n ≠ s.own → s.peerState n ≠ .active)) →
    let act := alarmSequence s.options s.inUse.lossGroup false f s.annList.records
    ∃ t, exec (.ownFrameOutcome slots) s = .next t
      ∧ t.station = .active ∧ t.lineCount = s.lineCount + 1 ∧ t.presence.quiet = 0
      ∧ t.line.frame = none ∧ t.line.framed = true ∧ t.line.gap = 0 ∧ t.line.strikes = s.line.strikes - 1
      ∧ t.annList.records = act.2
      ∧ t.annList.overflow
        = (if act.1 = .refused then true
          else if act.2.length < s.annList.records.length then false else s.annList.overflow)
      ∧ t.port.counters
        = { s.port.counters with
            overflowRefusals :=
              if act.1 = .refused then counted s.port.counters.overflowRefusals else s.port.counters.overflowRefusals }
      ∧ t.port.latches.stateChanged = s.port.latches.stateChanged ∧ s.sameOutside t
      ∧ (∀ n : StationNo, n ≠ s.own → t.presence.peers[n] = f.peerAfter n (s.presence.peers[n]))
      ∧ (s.annList.records.length ≤ act.2.length →
        ∀ q : LocalPoint, (∀ g, f.body ≠ .raise q g) → t.points[q] = s.points[q])
      ∧ (∀ p g, f.body = .raise p g →
        (act.1 = .published → (t.points[p]).caught = false ∧ (t.points[p]).waiting = false)
        ∧ (act.1 = .refused → (t.points[p]).caught = (s.points[p]).caught ∧ (t.points[p]).waiting = true))
      ∧ (s.annList.records.length ≤ act.2.length → (∀ n, f.body ≠ .loss n) → (∀ r, f.body ≠ .transferRoll r) →
        t.outbox = s.outbox.depart
        ∧ (f.sender = s.own → t.presence.peers = s.presence.peers))
      ∧ (act.2.length < s.annList.records.length →
        (∀ q : LocalPoint, t.points[q] = { s.points[q] with waiting := false })
        ∧ t.outbox = s.removalOffers t s.outbox.depart
        ∧ (f.sender = s.own → t.presence.peers = s.presence.peers))
      ∧ ((∀ n, f.body ≠ .loss n) → (∀ r, f.body ≠ .transferRoll r) →
        t.annList.walks
          = if act.2.length < s.annList.records.length then
              s.annList.walks.map fun w => { w with cursor := repairCursor s.annList.records act.2 w.cursor }
            else s.annList.walks)
      ∧ (∀ n, f.body = .loss n →
        t.annList.walks = s.annList.walks.filter (fun w => w.target != n)
        ∧ t.outbox = { s.outbox.depart with
            entries := s.outbox.depart.entries.filter
              (fun e => e != ⟨.transferRoll n, false⟩ && e != ⟨.loss n, false⟩) }
        ∧ (f.sender = s.own →
          (s.peerState n ≠ .discord → t.peerState n = .silent) ∧ (s.peerState n = .discord → t.peerState n = .discord)
          ∧ ∀ m, m ≠ n → t.presence.peers[m] = s.presence.peers[m]))
      ∧ ∀ r, f.body = .transferRoll r →
        (r.last = true →
          t.annList.walks = s.annList.walks.filter (fun w => w.target != r.target) ∧ t.outbox = s.outbox.depart)
        ∧ (r.last = false →
          t.annList.walks
            = s.annList.walks.map (fun w =>
                if w.target = r.target then { w with cursor := (r.record.map Record.id).or w.cursor } else w)
          ∧ t.outbox = s.outbox.depart.transferRollOffer r.target)

/-- The own JOIN: lone it founds the line at count 1 with the list it holds and reconciles every point, lowest first;
accepted it is admitted with the transfer timer at 0, stepped it ends in DISCORD; any other own bulletin stepped resyncs. -/
def Obligations.OwnJoinFoundsIsAdmittedOrEndsInDiscord : Prop :=
  ∀ (s : State) (f : Frame) (slots : Slots), s.hasSent f →
    (f.isJoin = true → slots = ⟨.recessive, .recessive, .recessive⟩ →
      (∀ n, n ≠ s.own → s.peerState n ≠ .active) →
      ∃ t, exec (.ownFrameOutcome slots) s = .next t
        ∧ t.station = .active ∧ t.lineCount = 1 ∧ t.annList = s.annList ∧ t.presence.quiet = 0
        ∧ t.presence.peers = s.presence.peers ∧ t.port.counters = s.port.counters
        ∧ t.line.strikes = s.line.strikes - 1 ∧ t.port.latches.stateChanged = true ∧ s.sameOutside t
        ∧ (∀ p : LocalPoint, (t.points[p]).waiting = false)
        ∧ (let u := (List.finRange 8).foldl State.reconcilePoint
              { s with station := .active, outbox := s.outbox.depart }
          t.points = u.points ∧ t.outbox = u.outbox)
        ∧ ((∀ p : LocalPoint, (s.points[p]).abnormal = false ∧ (s.points[p]).caught = false) →
          s.annList.records = [] → t.outbox = s.outbox.depart))
    ∧ (f.isJoin = true → slots.agree = .dominant → slots.veto = .recessive →
      ∃ t, exec (.ownFrameOutcome slots) s = .next t
        ∧ t.station = .joining (.admitted 0) ∧ t.lineCount = s.lineCount + 1 ∧ t.annList = s.annList
        ∧ t.presence.peers = s.presence.peers ∧ t.outbox = s.outbox.depart ∧ t.points = s.points
        ∧ t.port.counters = s.port.counters
        ∧ t.line.strikes = s.line.strikes - 1 ∧ t.port.latches.stateChanged = true ∧ s.sameOutside t)
    ∧ (slots = ⟨.recessive, .recessive, .dominant⟩ →
      (f.isJoin = true →
        ∃ t, exec (.ownFrameOutcome slots) s = .next t
          ∧ t.station = .discord ∧ t.annList = { s.annList with walks := [] } ∧ t.lineCount = s.lineCount
          ∧ t.outbox.entries = [] ∧ (∀ p : LocalPoint, t.outbox.owed[p] = false) ∧ t.presence = s.presence
          ∧ t.points = s.points ∧ t.port.counters = s.port.counters
          ∧ t.port.latches.stateChanged = true ∧ s.sameOutside t)
      ∧ (f.isJoin = false →
        ∃ t, exec (.ownFrameOutcome slots) s = .next t ∧ s.joinsWith t .resync ∧ t.lineCount = s.lineCount
          ∧ t.port.counters = { s.port.counters with resyncs := counted s.port.counters.resyncs }))

/-! The outcome at the receivers (05, 06, 07). -/

/-- A bulletin but a JOIN, accepted on the line, at an ACTIVE receiver that drove AGREE: the list and the line count change
as at its sender, the cursors of its walks with them, and the presence table changes by Table 7-3: the sender's entry becomes
ACTIVE from ABSENT or JOINING. A LOSS marks its station SILENT, discards its walk and withdraws a pending LOSS naming it, and
another sender's transfer roll ends the own walk for its target. A removal requeues the WAITING points and the SILENT peers left without a record. The
station's own number and a LOSS naming it are other statements'. The model's choices: a LOSS whose sender names itself leaves
it SILENT, and a transfer roll whose target is its sender makes it ACTIVE where either row of the table does (log entry 12);
at a removal the points' offers come before the peers' (log entry 13). -/
def Obligations.AgreedBulletinIsAppliedByAnActiveReceiver : Prop :=
  ∀ (s : State) (f : Frame) (slots : Slots), s.hasHeard f (some .agree) → s.station = .active →
    slots.veto = .recessive → f.sender ≠ s.own → f.isJoin = false → f.body ≠ .loss s.own →
    let act := alarmSequence s.options s.inUse.lossGroup false f s.annList.records
    ∃ t, exec (.receivedFrameOutcome slots) s = .next t
      ∧ t.station = .active ∧ t.lineCount = s.lineCount + 1 ∧ s.line.leftFrame t.line ∧ s.sameOutside t
      ∧ t.presence.quiet = s.presence.quiet
      ∧ (∀ n : StationNo, n ≠ s.own → t.presence.peers[n] = f.peerAfter n (s.presence.peers[n]))
      ∧ t.port.latches.stateChanged = s.port.latches.stateChanged
      ∧ t.port.counters
        = { s.port.counters with
            overflowRefusals :=
              if act.1 = .refused then counted s.port.counters.overflowRefusals else s.port.counters.overflowRefusals }
      ∧ t.annList.records = act.2
      ∧ t.annList.overflow
        = (if act.1 = .refused then true
          else if act.2.length < s.annList.records.length then false else s.annList.overflow)
      ∧ (∀ p : LocalPoint, (t.points[p]).caught = (s.points[p]).caught ∧ (t.points[p]).abnormal = (s.points[p]).abnormal)
      ∧ (s.annList.records.length ≤ act.2.length →
        t.points = s.points
        ∧ ((∀ n, f.body ≠ .loss n) → (∀ r, f.body ≠ .transferRoll r) →
          t.outbox = s.outbox
          ∧ (∀ n, n ≠ f.sender → t.presence.peers[n] = s.presence.peers[n])
          ∧ t.peerState f.sender
            = (match s.peerState f.sender with
              | .absent => .active
              | .joining => .active
              | other => other)))
      ∧ (act.2.length < s.annList.records.length →
        (∀ p : LocalPoint, t.points[p] = { s.points[p] with waiting := false })
        ∧ t.outbox = s.removalOffers t s.outbox
        ∧ (∀ n, n ≠ f.sender → t.presence.peers[n] = s.presence.peers[n])
        ∧ t.peerState f.sender = notedState (s.peerState f.sender))
      ∧ ((∀ n, f.body ≠ .loss n) → (∀ r, f.body ≠ .transferRoll r) →
        t.annList.walks
          = if act.2.length < s.annList.records.length then
              s.annList.walks.map fun w => { w with cursor := repairCursor s.annList.records act.2 w.cursor }
            else s.annList.walks)
      ∧ (∀ n, f.body = .loss n →
        t.annList.walks = s.annList.walks.filter (fun w => w.target != n)
        ∧ t.outbox.entries = s.outbox.entries.filter
            (fun e => e != ⟨.loss n, false⟩ && e != ⟨.transferRoll n, false⟩)
        ∧ (s.peerState n ≠ .discord → t.peerState n = .silent) ∧ (s.peerState n = .discord → t.peerState n = .discord))
      ∧ ∀ r, f.body = .transferRoll r →
        t.annList.walks = s.annList.walks.filter (fun w => w.target != r.target)
        ∧ t.outbox.entries = s.outbox.entries.filter (fun e => e != ⟨.transferRoll r.target, false⟩)
        ∧ (r.target ≠ s.own → (t.presence.peers[r.target]).silence = 0
          ∧ (r.last = true → s.peerState r.target ≠ .discord → t.peerState r.target = .active))

/-- A JOIN accepted on the line: an ACTIVE station that agreed drops its earlier walk for the joiner, withdraws what it has
pending for it, marks it JOINING, begins a new walk before the head and offers its first roll; one that stepped marks
it DISCORD and begins none. Both advance the count and act on the joiner's loss point; where that removes its record the
other walks' cursors are repaired, the overflow indication clears, and the WAITING points and the SILENT peers left
without a record are requeued, the points before the peers (the model's choice: log entry 13). -/
def Obligations.AcceptedJoinBeginsAWalkWhereItWasAgreed : Prop :=
  ∀ (s : State) (f : Frame) (slots : Slots) (reason : Reason) (d : Half) (slot : Slot),
    s.hasHeard f (some slot) → s.station = .active → f.body = .join reason d → f.sender ≠ s.own →
    slots.veto = .recessive → (slot = .agree ∨ (slot = .step ∧ slots.agree = .dominant)) →
    s.outbox.inFlight = [] →
    let rs := (alarmSequence s.options s.inUse.lossGroup false f s.annList.records).2
    let removed := rs.length < s.annList.records.length
    let kept := (s.annList.walks.filter fun w => w.target != f.sender).map fun w =>
      if removed then { w with cursor := repairCursor s.annList.records rs w.cursor } else w
    let waiting := s.outbox.entries.filter fun e => e != ⟨.transferRoll f.sender, false⟩ && e != ⟨.loss f.sender, false⟩
    ∃ t, exec (.receivedFrameOutcome slots) s = .next t
      ∧ t.station = .active ∧ t.lineCount = s.lineCount + 1 ∧ t.annList.records = rs
      ∧ s.line.leftFrame t.line ∧ s.sameOutside t ∧ t.port.counters = s.port.counters
      ∧ (removed → t.annList.overflow = false ∧ ∀ p : LocalPoint, t.points[p] = { s.points[p] with waiting := false })
      ∧ (¬removed → t.annList.overflow = s.annList.overflow ∧ t.points = s.points)
      ∧ (∀ n, n ≠ f.sender → t.presence.peers[n] = s.presence.peers[n])
      ∧ (slot = .agree →
        let offered : Outbox := { s.outbox with entries := waiting ++ [⟨.transferRoll f.sender, false⟩] }
        t.peerState f.sender = .joining
        ∧ t.annList.walks = kept ++ [{ target := f.sender, cursor := none }]
        ∧ t.outbox = if removed then s.removalOffers t offered else offered)
      ∧ (slot = .step →
        let left : Outbox := { s.outbox with entries := waiting }
        t.peerState f.sender = .discord
        ∧ t.annList.walks = kept ∧ t.outbox = if removed then s.removalOffers t left else left)

/-- A frame whose slots show VETO, or that shows STEP alone where the station is no stepper of a JOIN, changes nothing at a
receiver but that it has left the frame; nor does one with no slot seen in LISTEN, asking, MUTED or DISCORD, nor any
frame of a peer in LISTEN, asking or DISCORD, all while no timer's end is due; an ACTIVE receiver that stepped a JOIN marks its sender DISCORD at STEP
alone; one that stepped another kind, accepted on the line, resyncs without applying it. -/
def Obligations.VoidFramesChangeNothingAndSteppedOnesDivide : Prop :=
  ∀ (s : State) (f : Frame) (slots : Slots) (drive : Option Slot), s.hasHeard f drive →
    (slots.veto = .dominant →
      ∃ l, exec (.receivedFrameOutcome slots) s = .next { s with line := l } ∧ s.line.leftFrame l)
    ∧ (slots = ⟨.recessive, .recessive, .dominant⟩ → (drive = none ∨ (drive = some .step ∧ f.isJoin = false)) →
      ∃ l, exec (.receivedFrameOutcome slots) s = .next { s with line := l } ∧ s.line.leftFrame l)
    ∧ (drive = none →
      ((slots = ⟨.recessive, .recessive, .recessive⟩ ∧ ∃ k lost, s.station = .muted k lost)
        ∨ ((slots = ⟨.recessive, .recessive, .recessive⟩ ∨ f.sender ≠ s.own)
          ∧ ((∃ n, s.station = .listen n) ∨ s.station = .joining .asking ∨ s.station = .discord))) →
      ∃ l, exec (.receivedFrameOutcome slots) s = .next { s with line := l } ∧ s.line.leftFrame l)
    ∧ (s.station = .active → drive = some .step → slots.veto = .recessive → f.sender ≠ s.own →
      (f.isJoin = true → slots.agree = .recessive →
        ∃ t, exec (.receivedFrameOutcome slots) s = .next t
          ∧ t = { s with line := t.line, presence := t.presence, port := t.port } ∧ s.line.leftFrame t.line
          ∧ t.port.counters = s.port.counters
          ∧ t.peerState f.sender = .discord ∧ ∀ n, n ≠ f.sender → t.presence.peers[n] = s.presence.peers[n])
      ∧ (f.isJoin = false → slots.agree = .dominant →
        ∃ t, exec (.receivedFrameOutcome slots) s = .next t ∧ s.joinsWith t .resync ∧ t.lineCount = s.lineCount
          ∧ t.port.counters = { s.port.counters with resyncs := counted s.port.counters.resyncs }))

/-- With no timer's end due, an accepted frame that carries the own number takes a receiver in JOINING, ACTIVE or MUTED to
DISCORD with its list and count as they were; a LOSS naming the station, accepted by an ACTIVE receiver that agreed or by a MUTED station in step,
advances the count and enters JOINING with reason LOST. -/
def Obligations.OwnNumberLeadsToDiscordAndOwnLossToJoining : Prop :=
  ∀ (s : State) (f : Frame) (slots : Slots) (drive : Option Slot), s.hasHeard f drive →
    slots.veto = .recessive → drive ≠ some .veto → (slots.agree = .dominant ∨ drive = some .agree) →
    (f.sender = s.own → ((∃ phase, s.station = .joining phase) ∨ s.station = .active ∨ ∃ k lost, s.station = .muted k lost) →
      ∃ t, exec (.receivedFrameOutcome slots) s = .next t
        ∧ t.station = .discord ∧ t.annList = { s.annList with walks := [] } ∧ t.lineCount = s.lineCount
        ∧ t.outbox.entries = [] ∧ t.presence = s.presence ∧ t.points = s.points
        ∧ t.line.strikes = (match s.station with | .muted _ _ => 0 | _ => s.line.strikes)
        ∧ t.port.counters = s.port.counters ∧ t.port.latches.stateChanged = true ∧ s.sameOutside t)
    ∧ (f.sender ≠ s.own → f.body = .loss s.own →
      ((s.station = .active ∧ drive = some .agree) ∨ ((∃ k, s.station = .muted k false) ∧ f.count = s.lineCount)) →
      ∃ t, exec (.receivedFrameOutcome slots) s = .next t ∧ s.joinsWith t .lost ∧ t.lineCount = s.lineCount + 1
        ∧ t.port.counters.resyncs = s.port.counters.resyncs)

/-- Stations that accept without a vote, no timer's end being due (log entry 20). MUTED: an accepted frame in step is applied
in full, with overflow indication and refusal count; one out of step or misread sets the step-lost flag, after which nothing
is applied. Admitted: only the first roll addressed to it, accepted or with no slot
seen, which sets the count to the roll's and one more, and is the last one too where it is marked so. Filling: in step it
applies what it holds and takes its rolls, and after the last it is ACTIVE and has reconciled its points; out of step an
accepted frame makes it resync and one with no slot seen does nothing. A bulletin applied changes the presence table by
Table 7-3, where a DISCORD entry stays at a JOIN; a LOSS whose sender names itself leaves it SILENT, and a transfer roll whose
target is its sender makes it ACTIVE where either row of the table does (the model's choice: log entry 12). A misread frame
changes nothing else anywhere. -/
def Obligations.MutedAndJoiningStationsAcceptPassively : Prop :=
  (∀ (s : State) (slots : Slots) (drive : Option Slot), s.hasMisread drive →
    let accepted := (slots.agree = .dominant ∨ drive = some .agree) ∧ slots.veto = .recessive ∧ drive ≠ some .veto
    (∀ k, s.station = .muted k false → accepted →
      ∃ l, exec (.receivedFrameOutcome slots) s = .next { s with line := l, station := .muted k true }
        ∧ s.line.leftFrame l)
    ∧ ((∀ k, s.station ≠ .muted k false) ∨ ¬accepted →
      ∃ l, exec (.receivedFrameOutcome slots) s = .next { s with line := l } ∧ s.line.leftFrame l))
  ∧ ∀ (s : State) (f : Frame) (slots : Slots), s.hasHeard f none → f.sender ≠ s.own → slots.veto = .recessive →
    let inStep := f.isJoin = true ∨ f.count = s.lineCount
    let accepted := slots.agree = .dominant
    let taken := accepted ∨ slots.step = .recessive
    (∀ k, s.station = .muted k false → accepted →
      (inStep → f.body ≠ .loss s.own →
        let act := alarmSequence s.options s.inUse.lossGroup false f s.annList.records
        ∃ t, exec (.receivedFrameOutcome slots) s = .next t ∧ t.station = s.station ∧ t.lineCount = s.lineCount + 1
          ∧ t.annList.records = act.2
          ∧ t.annList.overflow
            = (if act.1 = .refused then true
              else if act.2.length < s.annList.records.length then false else s.annList.overflow)
          ∧ (∀ n : StationNo, n ≠ s.own → t.presence.peers[n] = f.peerAfter n (s.presence.peers[n]))
          ∧ t.port.counters
            = { s.port.counters with
                overflowRefusals :=
                  if act.1 = .refused then counted s.port.counters.overflowRefusals
                  else s.port.counters.overflowRefusals }
          ∧ t.presence.quiet = s.presence.quiet ∧ (s.outbox.entries = [] → t.outbox.entries = [])
          ∧ t.outbox.owed = s.outbox.owed ∧ t.points = s.points ∧ s.line.leftFrame t.line ∧ s.sameOutside t)
      ∧ (¬inStep →
        ∃ l, exec (.receivedFrameOutcome slots) s = .next { s with line := l, station := .muted k true }
          ∧ s.line.leftFrame l))
    ∧ (∀ k, s.station = .muted k true →
      ∃ l, exec (.receivedFrameOutcome slots) s = .next { s with line := l } ∧ s.line.leftFrame l)
    ∧ (∀ k, s.station = .joining (.admitted k) →
      (∀ r, f.body = .transferRoll r → r.target = s.own → taken →
        ∃ t, exec (.receivedFrameOutcome slots) s = .next t ∧ t.lineCount = f.count + 1 ∧ s.takesRoll t f.sender r
          ∧ t.port.latches.stateChanged = true ∧ t.port.counters = s.port.counters ∧ s.line.leftFrame t.line
          ∧ s.sameOutside t)
      ∧ ((∀ r, f.body = .transferRoll r → r.target ≠ s.own) →
        ∃ l, exec (.receivedFrameOutcome slots) s = .next { s with line := l } ∧ s.line.leftFrame l))
    ∧ (∀ k, s.station = .joining (.filling k) →
      (¬inStep → accepted →
        ∃ t, exec (.receivedFrameOutcome slots) s = .next t ∧ s.joinsWith t .resync ∧ t.lineCount = s.lineCount
          ∧ t.port.counters = { s.port.counters with resyncs := counted s.port.counters.resyncs })
      ∧ (¬inStep → ¬accepted →
        ∃ l, exec (.receivedFrameOutcome slots) s = .next { s with line := l } ∧ s.line.leftFrame l)
      ∧ (inStep → taken → (∀ r, f.body = .transferRoll r → r.target ≠ s.own) →
        let rs := (alarmSequence s.options s.inUse.lossGroup true f s.annList.records).2
        ∃ t, exec (.receivedFrameOutcome slots) s = .next t ∧ t.station = s.station ∧ t.lineCount = s.lineCount + 1
          ∧ t.annList.records = rs
          ∧ t.annList.overflow = (if rs.length < s.annList.records.length then false else s.annList.overflow)
          ∧ (∀ n : StationNo, n ≠ s.own → t.presence.peers[n] = f.peerAfter n (s.presence.peers[n]))
          ∧ t.presence.quiet = s.presence.quiet ∧ (s.outbox.entries = [] → t.outbox.entries = [])
          ∧ t.points = s.points ∧ t.port.counters = s.port.counters ∧ s.line.leftFrame t.line ∧ s.sameOutside t)
      ∧ ∀ r, inStep → taken → f.body = .transferRoll r → r.target = s.own →
        ∃ t, exec (.receivedFrameOutcome slots) s = .next t ∧ t.lineCount = s.lineCount + 1 ∧ s.takesRoll t f.sender r
          ∧ t.port.counters = s.port.counters ∧ s.line.leftFrame t.line ∧ s.sameOutside t)

/-! The programming session and the service port (10, 11, 12). -/

/-- Programming in UNCOMMISSIONED: the answers of OPEN, STAGE, BURN and CLOSE with their effects, a burn's end by completion
after 16,000 idle clock periods (a step is a clock period: log entry 2) or by the loss of VPP. In any other state each
request is answered REFUSED, while a burn runs BUSY, and changes nothing: no session, no count of a running burn. VPP is as
sensed with OPEN and BURN (log entry 5) and otherwise as it was; that an OPEN or BURN answered BUSY with VPP absent leaves the
burn running, which only the loss of VPP as its own command fails, is the model's choice (log entry 23). -/
def Obligations.ProgrammingSessionOpensStagesBurnsAndCloses : Prop :=
  ∀ (s : State) (vpp : Bool) (cell value : Byte), s.serves →
    let leaves := fun (level : Bool) (clocks : Nat) (u : Session) (t : State) =>
      t = { s with
            session := u
            port := { s.port with slot := t.port.slot, shifted := t.port.shifted, selection := t.port.selection }
            pins := { s.pins with vpp := level }
            timebase := { s.timebase with burnClocks := clocks } }
    let sensed := leaves vpp s.timebase.burnClocks
    let kept := leaves s.pins.vpp s.timebase.burnClocks
    let closed : Session := { s.session with phase := .closed, staged := none }
    let failed : Session := { phase := .closed, staged := none, lastBurn := .failed }
    ((∀ c, s.station ≠ .uncommissioned c) ∨ s.session.phase = .burning →
      let status : Byte := if s.session.phase = .burning then 2 else 3
      (∃ t, exec (.openSession vpp) s = .next t ∧ sensed s.session t ∧ s.answered t [status, 0x10])
      ∧ (∃ t, exec (.stage cell value) s = .next t ∧ kept s.session t ∧ s.answered t [status, 0x11])
      ∧ (∃ t, exec (.burn vpp) s = .next t ∧ sensed s.session t ∧ s.answered t [status, 0x12])
      ∧ (∃ t, exec .close s = .next t ∧ kept s.session t ∧ s.answered t [status, 0x13]))
    ∧ ((∃ c, s.station = .uncommissioned c) → s.session.phase ≠ .burning →
      (∃ t, exec (.openSession vpp) s = .next t
        ∧ (s.store[25].getLsbD 0 = true → sensed s.session t ∧ s.answered t [4, 0x10])
        ∧ (s.store[25].getLsbD 0 = false → vpp = false → sensed s.session t ∧ s.answered t [3, 0x10])
        ∧ (s.store[25].getLsbD 0 = false → vpp = true → s.answered t [0, 0x10]
          ∧ (s.session.phase = .closed → sensed { s.session with phase := .opened, staged := none } t)
          ∧ (s.session.phase = .opened → sensed s.session t)))
      ∧ (∃ t, exec (.stage cell value) s = .next t
        ∧ (s.session.phase = .closed → kept s.session t ∧ s.answered t [5, 0x11])
        ∧ (s.session.phase = .opened → 25 < cell.toNat → kept s.session t ∧ s.answered t [6, 0x11])
        ∧ (s.session.phase = .opened → ∀ c : CellNo, c.val = cell.toNat →
          kept { s.session with staged := some (c, value) } t ∧ s.answered t [0, 0x11]))
      ∧ (∃ t, exec (.burn vpp) s = .next t
        ∧ (s.session.phase = .closed → sensed s.session t ∧ s.answered t [5, 0x12])
        ∧ (s.session.phase = .opened → s.session.staged = none → sensed s.session t ∧ s.answered t [3, 0x12])
        ∧ (s.session.phase = .opened → s.session.staged ≠ none → vpp = false → sensed failed t ∧ s.answered t [9, 0x12])
        ∧ (s.session.phase = .opened → s.session.staged ≠ none → vpp = true →
          leaves true 0 { s.session with phase := .burning } t ∧ s.answered t [0, 0x12]))
      ∧ (∃ t, exec .close s = .next t ∧ kept closed t ∧ s.answered t [0, 0x13]))
    ∧ (∀ c v, s.session.phase = .burning → s.session.staged = some (c, v) →
      (∃ t, exec .burnCompletion s = .next t
        ∧ t = { s with store := t.store, session := t.session, timebase := { s.timebase with burnClocks := 0 } }
        ∧ t.store[c] = s.store[c] ||| v ∧ (∀ d : CellNo, d ≠ c → t.store[d] = s.store[d])
        ∧ t.session =
          { phase := if t.store[25].getLsbD 0 then .closed else .opened, staged := none, lastBurn := .done })
      ∧ (∃ t, exec .vppLost s = .next t ∧ leaves false 0 failed t ∧ t.port = s.port)
      ∧ (s.pending = [] → s.station.inService = false → s.station ≠ .start → s.timebase.burnClocks = 0 →
        (∀ k, k < 16000 → (s.steps k).session = s.session ∧ (s.steps k).store = s.store)
        ∧ (s.steps 16000).session.lastBurn = .done ∧ (s.steps 16000).store[c] = s.store[c] ||| v))
    ∧ (s.session.phase ≠ .burning →
      ∃ t, exec .vppLost s = .next t ∧ leaves false s.timebase.burnClocks s.session t ∧ t.port = s.port)

/-- What the reading requests return, byte by byte in the numbers of Table 12-5, each with the station otherwise as it was:
STATUS in every state and during a burn; LIST, PRESENCE, POINTS, COUNTERS and SETTINGS with no burn running. That the bits
which Table 12-5 does not name are 0, in the flags byte of STATUS and the state bytes of POINTS, is the model's choice (log
entry 25). -/
def Obligations.ReadingRequestsReturnTheirFields : Prop :=
  ∀ (s : State) (operand : Half) (cell : Byte), s.serves →
    let station : Byte :=
      match s.station with
      | .start => 0 | .uncommissioned _ => 1 | .listen _ => 2 | .joining _ => 3 | .active => 4 | .muted _ _ => 5
      | .discord => 6
    let phase : Byte :=
      match s.station with
      | .joining .asking => 1 | .joining (.admitted _) => 2 | .joining (.filling _) => 3 | _ => 0
    let cause : Byte :=
      match s.station with
      | .uncommissioned .blank => 1 | .uncommissioned .check => 2 | .uncommissioned .format => 3 | _ => 0
    let reset : Byte := match s.port.cause with | .powerOn => 1 | .pin => 2 | .restart => 3
    let flag := fun (b : Bool) (weight : Nat) => if b then weight else 0
    let latches : Byte := BitVec.ofNat 8
      (flag s.port.latches.listChanged 1 + flag s.port.latches.presenceChanged 2 + flag s.port.latches.stateChanged 4
        + flag s.port.latches.fault 8)
    let flags : Byte := BitVec.ofNat 8
      (flag s.annList.overflow 1 + (match s.session.phase with | .closed => 0 | .opened => 2 | .burning => 4)
        + (match s.session.lastBurn with | .none => 0 | .done => 8 | .failed => 16))
    let twoBytes := fun (n : Nat) => ([BitVec.ofNat 8 (n / 256), BitVec.ofNat 8 n] : List Byte)
    let word := fun (r : Record) =>
      r.id.val * 128 + (match r.state with | .alert => 0 | .held => 1 | .lapsed => 2 | .settled => 3) * 32
        + r.group.val * 4 + flag r.firstOut 2 + flag r.silenced 1
    (∃ t, exec .status s = .next t ∧ s.onlyAnswers t
      ∧ s.answered t
        [0, 1, station, phase, cause, reset, BitVec.ofNat 8 s.line.strikes, s.lineCount,
          BitVec.ofNat 8 s.annList.records.length, latches, flags])
    ∧ (s.session.phase ≠ .burning →
      (∃ t, exec (.list operand) s = .next t ∧ s.onlyAnswers t
        ∧ ∀ (rest : List Record),
          (operand = 0xFFFF ∧ rest = s.annList.records)
            ∨ (∃ older r, s.annList.records = older ++ r :: rest ∧ r.id.val = operand.toNat
              ∧ ∀ x ∈ older, x.id ≠ r.id) →
          s.answered t
            ([0, 3, s.lineCount, BitVec.ofNat 8 (min 6 rest.length), if 6 < rest.length then 1 else 0]
              ++ (rest.take 6).flatMap fun r => twoBytes (word r)))
      ∧ (operand ≠ 0xFFFF → (∀ r ∈ s.annList.records, r.id.val ≠ operand.toNat) →
        ∃ t, exec (.list operand) s = .next t ∧ s.onlyAnswers t ∧ s.answered t [6, 3, s.lineCount])
      ∧ (∃ t bytes, exec .presence s = .next t ∧ s.onlyAnswers t ∧ s.answered t ([0, 4] ++ bytes)
        ∧ bytes.length = 32
        ∧ ∀ n : StationNo,
          (s.settings = none → bytes[n.val]? = some 0)
          ∧ (∀ c, s.settings = some c → n = c.number → bytes[n.val]? = some (0x80 + station))
          ∧ ∀ c, s.settings = some c → n ≠ c.number →
            let peer : Byte :=
              match s.peerState n with | .absent => 0 | .joining => 1 | .active => 2 | .silent => 3 | .discord => 4
            bytes[n.val]? = some peer)
      ∧ (∃ t bytes, exec .points s = .next t ∧ s.onlyAnswers t ∧ s.answered t ([0, 5] ++ bytes)
        ∧ bytes.length = 16
        ∧ ∀ p : LocalPoint,
          (s.settings = none → bytes[2 * p.val]? = some 0)
          ∧ (∀ c, s.settings = some c →
            let u := c.points[p]
            bytes[2 * p.val]?
              = some (BitVec.ofNat 8
                (u.debounce.val * 32 + flag u.activeLow 16 + (match u.mode with | .level => 0 | .pulse => 8) + u.group.val)))
          ∧ bytes[2 * p.val + 1]?
            = some (BitVec.ofNat 8
              (flag (s.points[p]).abnormal 1 + flag (s.points[p]).caught 2 + flag (s.points[p]).waiting 4)))
      ∧ (∃ t, exec .counters s = .next t ∧ s.onlyAnswers t
        ∧ s.answered t
          ([0, 6] ++ [s.port.counters.goodFrames, s.port.counters.vetosDriven, s.port.counters.ownVoided,
            s.port.counters.resyncs, s.port.counters.mutes, s.port.counters.lineHeld,
            s.port.counters.overflowRefusals].flatMap fun c => twoBytes c.toNat))
      ∧ (∃ t, exec (.settings cell) s = .next t ∧ s.onlyAnswers t
        ∧ (∀ c : CellNo, c.val = cell.toNat → s.answered t [0, 9, s.store[c]])
        ∧ (25 < cell.toNat → s.answered t [6, 9])))

/-- The other selections: ACKNOWLEDGE returns the latches and clears those named, CLEAR_COUNTERS clears the seven counters,
an undefined code is answered UNKNOWN, a truncated selection TRUNCATED even while a burn runs, every other request BUSY
while a burn runs. That a BUSY response to LIST carries the line count, and a TRUNCATED response to its code does not, is the
model's choice (log entry 14). A falling edge, after a selection that is not served as well, begins a selection that shifts
out the slot, or while a reset lasts one that is not served, of which nothing is taken (log entry 6). A served selection
presents on SDO the bits of the slot's bytes and then of fill bytes, most significant bit first; nothing else is presented.
The bits of a selection spell its command by Table 12-4, an unfinished byte and what follows a complete request ignored,
with VPP as sensed (log entry 5). -/
def Obligations.OtherSelectionsAcknowledgeClearAndReport : Prop :=
  ∀ (s : State) (mask code : Byte),
    (s.serves → s.session.phase ≠ .burning →
      (∃ t, exec (.acknowledge mask) s = .next t ∧ t = { s with port := t.port }
        ∧ s.answered t
          [0, 2, BitVec.ofNat 8
            ((if s.port.latches.listChanged then 1 else 0) + (if s.port.latches.presenceChanged then 2 else 0)
              + (if s.port.latches.stateChanged then 4 else 0) + (if s.port.latches.fault then 8 else 0))]
        ∧ t.port.counters = s.port.counters ∧ t.port.cause = s.port.cause
        ∧ (t.port.latches.listChanged = true ↔ s.port.latches.listChanged = true ∧ mask.getLsbD 0 = false)
        ∧ (t.port.latches.presenceChanged = true ↔ s.port.latches.presenceChanged = true ∧ mask.getLsbD 1 = false)
        ∧ (t.port.latches.stateChanged = true ↔ s.port.latches.stateChanged = true ∧ mask.getLsbD 2 = false)
        ∧ (t.port.latches.fault = true ↔ s.port.latches.fault = true ∧ mask.getLsbD 3 = false)
        ∧ (t.notifyLow = true ↔ t.port.latches ≠ ⟨false, false, false, false⟩))
      ∧ (∃ t, exec .clearCounters s = .next t ∧ t = { s with port := t.port } ∧ s.answered t [0, 7]
        ∧ t.port.latches = s.port.latches ∧ t.port.cause = s.port.cause ∧ ∀ c ∈ t.port.counters.toList, c = 0)
      ∧ (requestOperands code = none →
        ∃ t, exec (.unknownRequest code) s = .next t ∧ s.onlyAnswers t ∧ s.answered t [7, code]))
    ∧ (s.serves →
      (∃ t, exec (.truncatedSelection none) s = .next t ∧ s.onlyAnswers t ∧ s.answered t [8, 0])
      ∧ (∀ n, requestOperands code = some n → 0 < n →
        ∃ t, exec (.truncatedSelection (some code)) s = .next t ∧ s.onlyAnswers t
          ∧ s.answered t [8, code]))
    ∧ (s.serves → s.session.phase = .burning →
      (∀ c ∈ [(.acknowledge mask, 2), (.presence, 4), (.points, 5), (.counters, 6), (.clearCounters, 7), (.press mask, 8),
          (.settings mask, 9), (.restart, 0x1F)],
        ∃ t, exec c.1 s = .next t ∧ s.onlyAnswers t ∧ s.answered t [2, c.2])
      ∧ (∀ operand, ∃ t, exec (.list operand) s = .next t ∧ s.onlyAnswers t ∧ s.answered t [2, 3, s.lineCount])
      ∧ (requestOperands code = none →
        ∃ t, exec (.unknownRequest code) s = .next t ∧ s.onlyAnswers t ∧ s.answered t [2, code]))
    ∧ (s.port.selection ≠ .served →
      (s.power = .running →
        exec .selFallingEdge s = .next { s with port := { s.port with selection := .served, shifted := s.port.slot } })
      ∧ (s.power ≠ .running →
        exec .selFallingEdge s = .next { s with port := { s.port with selection := .unserved } }))
    ∧ (∀ i : Nat,
        (s.power = .running → s.port.selection = .served →
          s.sdoBit i = some ((s.port.shifted.getD (i / 8) 0xFF).getLsbD (7 - i % 8)))
        ∧ (s.power ≠ .running ∨ s.port.selection ≠ .served → s.sdoBit i = none))
    ∧ (∀ (vpp : Bool) (a b : Byte) (rest : List Byte) (unfinished : List Bool), unfinished.length < 8 →
        let reads := fun bytes : List Byte =>
          selectionOfBits vpp ((bytes.flatMap fun x => [7, 6, 5, 4, 3, 2, 1, 0].map x.getLsbD) ++ unfinished)
        reads (0x01 :: rest) = .status ∧ reads (0x02 :: a :: rest) = .acknowledge a
        ∧ reads (0x03 :: a :: b :: rest) = .list (BitVec.ofNat 16 (a.toNat * 256 + b.toNat))
        ∧ reads (0x04 :: rest) = .presence ∧ reads (0x05 :: rest) = .points ∧ reads (0x06 :: rest) = .counters
        ∧ reads (0x07 :: rest) = .clearCounters ∧ reads (0x08 :: a :: rest) = .press a
        ∧ reads (0x09 :: a :: rest) = .settings a ∧ reads (0x10 :: rest) = .openSession vpp
        ∧ reads (0x11 :: a :: b :: rest) = .stage a b ∧ reads (0x12 :: rest) = .burn vpp
        ∧ reads (0x13 :: rest) = .close ∧ reads (0x1F :: rest) = .restart
        ∧ (code ∉ [0x01, 0x02, 0x03, 0x04, 0x05, 0x06, 0x07, 0x08, 0x09, 0x10, 0x11, 0x12, 0x13, 0x1F] →
          reads (code :: rest) = .unknownRequest code)
        ∧ reads [] = .truncatedSelection none
        ∧ (code ∈ [0x02, 0x03, 0x08, 0x09, 0x11] → reads [code] = .truncatedSelection (some code))
        ∧ (code ∈ [0x03, 0x11] → reads [code, a] = .truncatedSelection (some code)))
    ∧ (¬s.serves →
      ∀ c ∈ [.status, .acknowledge mask, .list 0xFFFF, .presence, .points, .counters, .clearCounters, .press mask,
          .settings mask, .stage mask mask, .close, .restart, .truncatedSelection none],
        exec c s = .next { s with port := { s.port with selection := .idle } })

end Statements
end

