-- ==== Sys2Proof/Laws/State.lean ====
section
/-!
SUPPORT. One lemma per field per named update of the state: what the update writes, and that it leaves every other field.
-/

namespace Sys2Proof.Machine

/-! `State.putList` -/

@[simp] theorem State.putList_power (s : State) (rs : List Record) (o : Bool) :
    (s.putList rs o).power = s.power := rfl

@[simp] theorem State.putList_station (s : State) (rs : List Record) (o : Bool) :
    (s.putList rs o).station = s.station := rfl

@[simp] theorem State.putList_lineCount (s : State) (rs : List Record) (o : Bool) :
    (s.putList rs o).lineCount = s.lineCount := rfl

@[simp] theorem State.putList_annList (s : State) (rs : List Record) (o : Bool) :
    (s.putList rs o).annList = { s.annList with records := rs, overflow := o } := rfl

@[simp] theorem State.putList_outbox (s : State) (rs : List Record) (o : Bool) :
    (s.putList rs o).outbox = s.outbox := rfl

@[simp] theorem State.putList_line (s : State) (rs : List Record) (o : Bool) :
    (s.putList rs o).line = s.line := rfl

@[simp] theorem State.putList_presence (s : State) (rs : List Record) (o : Bool) :
    (s.putList rs o).presence = s.presence := rfl

@[simp] theorem State.putList_points (s : State) (rs : List Record) (o : Bool) :
    (s.putList rs o).points = s.points := rfl

@[simp] theorem State.putList_buttons (s : State) (rs : List Record) (o : Bool) :
    (s.putList rs o).buttons = s.buttons := rfl

@[simp] theorem State.putList_settings (s : State) (rs : List Record) (o : Bool) :
    (s.putList rs o).settings = s.settings := rfl

@[simp] theorem State.putList_store (s : State) (rs : List Record) (o : Bool) :
    (s.putList rs o).store = s.store := rfl

@[simp] theorem State.putList_session (s : State) (rs : List Record) (o : Bool) :
    (s.putList rs o).session = s.session := rfl

@[simp] theorem State.putList_timebase (s : State) (rs : List Record) (o : Bool) :
    (s.putList rs o).timebase = s.timebase := rfl

@[simp] theorem State.putList_pins (s : State) (rs : List Record) (o : Bool) :
    (s.putList rs o).pins = s.pins := rfl

@[simp] theorem State.putList_pending (s : State) (rs : List Record) (o : Bool) :
    (s.putList rs o).pending = s.pending := rfl

@[simp] theorem State.putList_port_slot (s : State) (rs : List Record) (o : Bool) :
    (s.putList rs o).port.slot = s.port.slot := rfl

@[simp] theorem State.putList_port_shifted (s : State) (rs : List Record) (o : Bool) :
    (s.putList rs o).port.shifted = s.port.shifted := rfl

@[simp] theorem State.putList_port_selection (s : State) (rs : List Record) (o : Bool) :
    (s.putList rs o).port.selection = s.port.selection := rfl

@[simp] theorem State.putList_port_counters (s : State) (rs : List Record) (o : Bool) :
    (s.putList rs o).port.counters = s.port.counters := rfl

@[simp] theorem State.putList_port_cause (s : State) (rs : List Record) (o : Bool) :
    (s.putList rs o).port.cause = s.port.cause := rfl

/-! `State.putWalks` -/

@[simp] theorem State.putWalks_power (s : State) (ws : List Walk) :
    (s.putWalks ws).power = s.power := rfl

@[simp] theorem State.putWalks_station (s : State) (ws : List Walk) :
    (s.putWalks ws).station = s.station := rfl

@[simp] theorem State.putWalks_lineCount (s : State) (ws : List Walk) :
    (s.putWalks ws).lineCount = s.lineCount := rfl

@[simp] theorem State.putWalks_annList (s : State) (ws : List Walk) :
    (s.putWalks ws).annList = { s.annList with walks := ws } := rfl

@[simp] theorem State.putWalks_outbox (s : State) (ws : List Walk) :
    (s.putWalks ws).outbox = s.outbox := rfl

@[simp] theorem State.putWalks_line (s : State) (ws : List Walk) :
    (s.putWalks ws).line = s.line := rfl

@[simp] theorem State.putWalks_presence (s : State) (ws : List Walk) :
    (s.putWalks ws).presence = s.presence := rfl

@[simp] theorem State.putWalks_points (s : State) (ws : List Walk) :
    (s.putWalks ws).points = s.points := rfl

@[simp] theorem State.putWalks_buttons (s : State) (ws : List Walk) :
    (s.putWalks ws).buttons = s.buttons := rfl

@[simp] theorem State.putWalks_settings (s : State) (ws : List Walk) :
    (s.putWalks ws).settings = s.settings := rfl

@[simp] theorem State.putWalks_store (s : State) (ws : List Walk) :
    (s.putWalks ws).store = s.store := rfl

@[simp] theorem State.putWalks_session (s : State) (ws : List Walk) :
    (s.putWalks ws).session = s.session := rfl

@[simp] theorem State.putWalks_timebase (s : State) (ws : List Walk) :
    (s.putWalks ws).timebase = s.timebase := rfl

@[simp] theorem State.putWalks_port (s : State) (ws : List Walk) :
    (s.putWalks ws).port = s.port := rfl

@[simp] theorem State.putWalks_pins (s : State) (ws : List Walk) :
    (s.putWalks ws).pins = s.pins := rfl

@[simp] theorem State.putWalks_pending (s : State) (ws : List Walk) :
    (s.putWalks ws).pending = s.pending := rfl

/-! `State.emptied` -/

@[simp] theorem State.emptied_power (s : State) :
    s.emptied.power = s.power := rfl

@[simp] theorem State.emptied_station (s : State) :
    s.emptied.station = s.station := rfl

@[simp] theorem State.emptied_lineCount (s : State) :
    s.emptied.lineCount = s.lineCount := rfl

@[simp] theorem State.emptied_annList (s : State) :
    s.emptied.annList = { records := [], overflow := false, walks := [] } := rfl

@[simp] theorem State.emptied_outbox (s : State) :
    s.emptied.outbox = s.outbox := rfl

@[simp] theorem State.emptied_line (s : State) :
    s.emptied.line = s.line := rfl

@[simp] theorem State.emptied_presence (s : State) :
    s.emptied.presence = s.presence := rfl

@[simp] theorem State.emptied_points (s : State) :
    s.emptied.points = s.points := rfl

@[simp] theorem State.emptied_buttons (s : State) :
    s.emptied.buttons = s.buttons := rfl

@[simp] theorem State.emptied_settings (s : State) :
    s.emptied.settings = s.settings := rfl

@[simp] theorem State.emptied_store (s : State) :
    s.emptied.store = s.store := rfl

@[simp] theorem State.emptied_session (s : State) :
    s.emptied.session = s.session := rfl

@[simp] theorem State.emptied_timebase (s : State) :
    s.emptied.timebase = s.timebase := rfl

@[simp] theorem State.emptied_pins (s : State) :
    s.emptied.pins = s.pins := rfl

@[simp] theorem State.emptied_pending (s : State) :
    s.emptied.pending = s.pending := rfl

@[simp] theorem State.emptied_port_slot (s : State) :
    s.emptied.port.slot = s.port.slot := rfl

@[simp] theorem State.emptied_port_shifted (s : State) :
    s.emptied.port.shifted = s.port.shifted := rfl

@[simp] theorem State.emptied_port_selection (s : State) :
    s.emptied.port.selection = s.port.selection := rfl

@[simp] theorem State.emptied_port_counters (s : State) :
    s.emptied.port.counters = s.port.counters := rfl

@[simp] theorem State.emptied_port_cause (s : State) :
    s.emptied.port.cause = s.port.cause := rfl

/-! `State.mapOutbox` -/

@[simp] theorem State.mapOutbox_power (s : State) (f : Outbox → Outbox) :
    (s.mapOutbox f).power = s.power := rfl

@[simp] theorem State.mapOutbox_station (s : State) (f : Outbox → Outbox) :
    (s.mapOutbox f).station = s.station := rfl

@[simp] theorem State.mapOutbox_lineCount (s : State) (f : Outbox → Outbox) :
    (s.mapOutbox f).lineCount = s.lineCount := rfl

@[simp] theorem State.mapOutbox_annList (s : State) (f : Outbox → Outbox) :
    (s.mapOutbox f).annList = s.annList := rfl

@[simp] theorem State.mapOutbox_outbox (s : State) (f : Outbox → Outbox) :
    (s.mapOutbox f).outbox = f s.outbox := rfl

@[simp] theorem State.mapOutbox_line (s : State) (f : Outbox → Outbox) :
    (s.mapOutbox f).line = s.line := rfl

@[simp] theorem State.mapOutbox_presence (s : State) (f : Outbox → Outbox) :
    (s.mapOutbox f).presence = s.presence := rfl

@[simp] theorem State.mapOutbox_points (s : State) (f : Outbox → Outbox) :
    (s.mapOutbox f).points = s.points := rfl

@[simp] theorem State.mapOutbox_buttons (s : State) (f : Outbox → Outbox) :
    (s.mapOutbox f).buttons = s.buttons := rfl

@[simp] theorem State.mapOutbox_settings (s : State) (f : Outbox → Outbox) :
    (s.mapOutbox f).settings = s.settings := rfl

@[simp] theorem State.mapOutbox_store (s : State) (f : Outbox → Outbox) :
    (s.mapOutbox f).store = s.store := rfl

@[simp] theorem State.mapOutbox_session (s : State) (f : Outbox → Outbox) :
    (s.mapOutbox f).session = s.session := rfl

@[simp] theorem State.mapOutbox_timebase (s : State) (f : Outbox → Outbox) :
    (s.mapOutbox f).timebase = s.timebase := rfl

@[simp] theorem State.mapOutbox_port (s : State) (f : Outbox → Outbox) :
    (s.mapOutbox f).port = s.port := rfl

@[simp] theorem State.mapOutbox_pins (s : State) (f : Outbox → Outbox) :
    (s.mapOutbox f).pins = s.pins := rfl

@[simp] theorem State.mapOutbox_pending (s : State) (f : Outbox → Outbox) :
    (s.mapOutbox f).pending = s.pending := rfl

/-! `State.offer` -/

@[simp] theorem State.offer_power (s : State) (f : Outbox → Outbox) :
    (s.offer f).power = s.power := rfl

@[simp] theorem State.offer_station (s : State) (f : Outbox → Outbox) :
    (s.offer f).station = s.station := rfl

@[simp] theorem State.offer_lineCount (s : State) (f : Outbox → Outbox) :
    (s.offer f).lineCount = s.lineCount := rfl

@[simp] theorem State.offer_annList (s : State) (f : Outbox → Outbox) :
    (s.offer f).annList = s.annList := rfl

@[simp] theorem State.offer_outbox (s : State) (f : Outbox → Outbox) :
    (s.offer f).outbox = if s.isActive then f s.outbox else s.outbox := rfl

@[simp] theorem State.offer_line (s : State) (f : Outbox → Outbox) :
    (s.offer f).line = s.line := rfl

@[simp] theorem State.offer_presence (s : State) (f : Outbox → Outbox) :
    (s.offer f).presence = s.presence := rfl

@[simp] theorem State.offer_points (s : State) (f : Outbox → Outbox) :
    (s.offer f).points = s.points := rfl

@[simp] theorem State.offer_buttons (s : State) (f : Outbox → Outbox) :
    (s.offer f).buttons = s.buttons := rfl

@[simp] theorem State.offer_settings (s : State) (f : Outbox → Outbox) :
    (s.offer f).settings = s.settings := rfl

@[simp] theorem State.offer_store (s : State) (f : Outbox → Outbox) :
    (s.offer f).store = s.store := rfl

@[simp] theorem State.offer_session (s : State) (f : Outbox → Outbox) :
    (s.offer f).session = s.session := rfl

@[simp] theorem State.offer_timebase (s : State) (f : Outbox → Outbox) :
    (s.offer f).timebase = s.timebase := rfl

@[simp] theorem State.offer_port (s : State) (f : Outbox → Outbox) :
    (s.offer f).port = s.port := rfl

@[simp] theorem State.offer_pins (s : State) (f : Outbox → Outbox) :
    (s.offer f).pins = s.pins := rfl

@[simp] theorem State.offer_pending (s : State) (f : Outbox → Outbox) :
    (s.offer f).pending = s.pending := rfl

/-! `State.offerJoin` -/

@[simp] theorem State.offerJoin_power (s : State) (r : Reason) :
    (s.offerJoin r).power = s.power := rfl

@[simp] theorem State.offerJoin_station (s : State) (r : Reason) :
    (s.offerJoin r).station = s.station := rfl

@[simp] theorem State.offerJoin_lineCount (s : State) (r : Reason) :
    (s.offerJoin r).lineCount = s.lineCount := rfl

@[simp] theorem State.offerJoin_annList (s : State) (r : Reason) :
    (s.offerJoin r).annList = s.annList := rfl

@[simp] theorem State.offerJoin_outbox (s : State) (r : Reason) :
    (s.offerJoin r).outbox = if s.isActive then s.outbox else s.outbox.joinOffer r := rfl

@[simp] theorem State.offerJoin_line (s : State) (r : Reason) :
    (s.offerJoin r).line = s.line := rfl

@[simp] theorem State.offerJoin_presence (s : State) (r : Reason) :
    (s.offerJoin r).presence = s.presence := rfl

@[simp] theorem State.offerJoin_points (s : State) (r : Reason) :
    (s.offerJoin r).points = s.points := rfl

@[simp] theorem State.offerJoin_buttons (s : State) (r : Reason) :
    (s.offerJoin r).buttons = s.buttons := rfl

@[simp] theorem State.offerJoin_settings (s : State) (r : Reason) :
    (s.offerJoin r).settings = s.settings := rfl

@[simp] theorem State.offerJoin_store (s : State) (r : Reason) :
    (s.offerJoin r).store = s.store := rfl

@[simp] theorem State.offerJoin_session (s : State) (r : Reason) :
    (s.offerJoin r).session = s.session := rfl

@[simp] theorem State.offerJoin_timebase (s : State) (r : Reason) :
    (s.offerJoin r).timebase = s.timebase := rfl

@[simp] theorem State.offerJoin_port (s : State) (r : Reason) :
    (s.offerJoin r).port = s.port := rfl

@[simp] theorem State.offerJoin_pins (s : State) (r : Reason) :
    (s.offerJoin r).pins = s.pins := rfl

@[simp] theorem State.offerJoin_pending (s : State) (r : Reason) :
    (s.offerJoin r).pending = s.pending := rfl

/-! `State.enter` -/

@[simp] theorem State.enter_power (s : State) (st : Station) :
    (s.enter st).power = s.power := rfl

@[simp] theorem State.enter_station (s : State) (st : Station) :
    (s.enter st).station = st := rfl

@[simp] theorem State.enter_lineCount (s : State) (st : Station) :
    (s.enter st).lineCount = s.lineCount := rfl

@[simp] theorem State.enter_annList (s : State) (st : Station) :
    (s.enter st).annList = s.annList := rfl

@[simp] theorem State.enter_outbox (s : State) (st : Station) :
    (s.enter st).outbox = s.outbox := rfl

@[simp] theorem State.enter_line (s : State) (st : Station) :
    (s.enter st).line = s.line := rfl

@[simp] theorem State.enter_presence (s : State) (st : Station) :
    (s.enter st).presence = s.presence := rfl

@[simp] theorem State.enter_points (s : State) (st : Station) :
    (s.enter st).points = s.points := rfl

@[simp] theorem State.enter_buttons (s : State) (st : Station) :
    (s.enter st).buttons = s.buttons := rfl

@[simp] theorem State.enter_settings (s : State) (st : Station) :
    (s.enter st).settings = s.settings := rfl

@[simp] theorem State.enter_store (s : State) (st : Station) :
    (s.enter st).store = s.store := rfl

@[simp] theorem State.enter_session (s : State) (st : Station) :
    (s.enter st).session = s.session := rfl

@[simp] theorem State.enter_timebase (s : State) (st : Station) :
    (s.enter st).timebase = s.timebase := rfl

@[simp] theorem State.enter_pins (s : State) (st : Station) :
    (s.enter st).pins = s.pins := rfl

@[simp] theorem State.enter_pending (s : State) (st : Station) :
    (s.enter st).pending = s.pending := rfl

@[simp] theorem State.enter_port_slot (s : State) (st : Station) :
    (s.enter st).port.slot = s.port.slot := rfl

@[simp] theorem State.enter_port_shifted (s : State) (st : Station) :
    (s.enter st).port.shifted = s.port.shifted := rfl

@[simp] theorem State.enter_port_selection (s : State) (st : Station) :
    (s.enter st).port.selection = s.port.selection := rfl

@[simp] theorem State.enter_port_counters (s : State) (st : Station) :
    (s.enter st).port.counters = s.port.counters := rfl

@[simp] theorem State.enter_port_cause (s : State) (st : Station) :
    (s.enter st).port.cause = s.port.cause := rfl

/-! `State.putStation` -/

@[simp] theorem State.putStation_power (s : State) (st : Station) :
    (s.putStation st).power = s.power := rfl

@[simp] theorem State.putStation_station (s : State) (st : Station) :
    (s.putStation st).station = st := rfl

@[simp] theorem State.putStation_lineCount (s : State) (st : Station) :
    (s.putStation st).lineCount = s.lineCount := rfl

@[simp] theorem State.putStation_annList (s : State) (st : Station) :
    (s.putStation st).annList = s.annList := rfl

@[simp] theorem State.putStation_outbox (s : State) (st : Station) :
    (s.putStation st).outbox = s.outbox := rfl

@[simp] theorem State.putStation_line (s : State) (st : Station) :
    (s.putStation st).line = s.line := rfl

@[simp] theorem State.putStation_presence (s : State) (st : Station) :
    (s.putStation st).presence = s.presence := rfl

@[simp] theorem State.putStation_points (s : State) (st : Station) :
    (s.putStation st).points = s.points := rfl

@[simp] theorem State.putStation_buttons (s : State) (st : Station) :
    (s.putStation st).buttons = s.buttons := rfl

@[simp] theorem State.putStation_settings (s : State) (st : Station) :
    (s.putStation st).settings = s.settings := rfl

@[simp] theorem State.putStation_store (s : State) (st : Station) :
    (s.putStation st).store = s.store := rfl

@[simp] theorem State.putStation_session (s : State) (st : Station) :
    (s.putStation st).session = s.session := rfl

@[simp] theorem State.putStation_timebase (s : State) (st : Station) :
    (s.putStation st).timebase = s.timebase := rfl

@[simp] theorem State.putStation_port (s : State) (st : Station) :
    (s.putStation st).port = s.port := rfl

@[simp] theorem State.putStation_pins (s : State) (st : Station) :
    (s.putStation st).pins = s.pins := rfl

@[simp] theorem State.putStation_pending (s : State) (st : Station) :
    (s.putStation st).pending = s.pending := rfl

/-! `State.countAccepted` -/

@[simp] theorem State.countAccepted_power (s : State) :
    s.countAccepted.power = s.power := rfl

@[simp] theorem State.countAccepted_station (s : State) :
    s.countAccepted.station = s.station := rfl

@[simp] theorem State.countAccepted_lineCount (s : State) :
    s.countAccepted.lineCount = s.lineCount + 1 := rfl

@[simp] theorem State.countAccepted_annList (s : State) :
    s.countAccepted.annList = s.annList := rfl

@[simp] theorem State.countAccepted_outbox (s : State) :
    s.countAccepted.outbox = s.outbox := rfl

@[simp] theorem State.countAccepted_line (s : State) :
    s.countAccepted.line = s.line := rfl

@[simp] theorem State.countAccepted_presence (s : State) :
    s.countAccepted.presence = s.presence := rfl

@[simp] theorem State.countAccepted_points (s : State) :
    s.countAccepted.points = s.points := rfl

@[simp] theorem State.countAccepted_buttons (s : State) :
    s.countAccepted.buttons = s.buttons := rfl

@[simp] theorem State.countAccepted_settings (s : State) :
    s.countAccepted.settings = s.settings := rfl

@[simp] theorem State.countAccepted_store (s : State) :
    s.countAccepted.store = s.store := rfl

@[simp] theorem State.countAccepted_session (s : State) :
    s.countAccepted.session = s.session := rfl

@[simp] theorem State.countAccepted_timebase (s : State) :
    s.countAccepted.timebase = s.timebase := rfl

@[simp] theorem State.countAccepted_port (s : State) :
    s.countAccepted.port = s.port := rfl

@[simp] theorem State.countAccepted_pins (s : State) :
    s.countAccepted.pins = s.pins := rfl

@[simp] theorem State.countAccepted_pending (s : State) :
    s.countAccepted.pending = s.pending := rfl

/-! `State.mapLine` -/

@[simp] theorem State.mapLine_power (s : State) (f : Line → Line) :
    (s.mapLine f).power = s.power := rfl

@[simp] theorem State.mapLine_station (s : State) (f : Line → Line) :
    (s.mapLine f).station = s.station := rfl

@[simp] theorem State.mapLine_lineCount (s : State) (f : Line → Line) :
    (s.mapLine f).lineCount = s.lineCount := rfl

@[simp] theorem State.mapLine_annList (s : State) (f : Line → Line) :
    (s.mapLine f).annList = s.annList := rfl

@[simp] theorem State.mapLine_outbox (s : State) (f : Line → Line) :
    (s.mapLine f).outbox = s.outbox := rfl

@[simp] theorem State.mapLine_line (s : State) (f : Line → Line) :
    (s.mapLine f).line = f s.line := rfl

@[simp] theorem State.mapLine_presence (s : State) (f : Line → Line) :
    (s.mapLine f).presence = s.presence := rfl

@[simp] theorem State.mapLine_points (s : State) (f : Line → Line) :
    (s.mapLine f).points = s.points := rfl

@[simp] theorem State.mapLine_buttons (s : State) (f : Line → Line) :
    (s.mapLine f).buttons = s.buttons := rfl

@[simp] theorem State.mapLine_settings (s : State) (f : Line → Line) :
    (s.mapLine f).settings = s.settings := rfl

@[simp] theorem State.mapLine_store (s : State) (f : Line → Line) :
    (s.mapLine f).store = s.store := rfl

@[simp] theorem State.mapLine_session (s : State) (f : Line → Line) :
    (s.mapLine f).session = s.session := rfl

@[simp] theorem State.mapLine_timebase (s : State) (f : Line → Line) :
    (s.mapLine f).timebase = s.timebase := rfl

@[simp] theorem State.mapLine_port (s : State) (f : Line → Line) :
    (s.mapLine f).port = s.port := rfl

@[simp] theorem State.mapLine_pins (s : State) (f : Line → Line) :
    (s.mapLine f).pins = s.pins := rfl

@[simp] theorem State.mapLine_pending (s : State) (f : Line → Line) :
    (s.mapLine f).pending = s.pending := rfl

/-! `State.mapCounters` -/

@[simp] theorem State.mapCounters_power (s : State) (f : Counters → Counters) :
    (s.mapCounters f).power = s.power := rfl

@[simp] theorem State.mapCounters_station (s : State) (f : Counters → Counters) :
    (s.mapCounters f).station = s.station := rfl

@[simp] theorem State.mapCounters_lineCount (s : State) (f : Counters → Counters) :
    (s.mapCounters f).lineCount = s.lineCount := rfl

@[simp] theorem State.mapCounters_annList (s : State) (f : Counters → Counters) :
    (s.mapCounters f).annList = s.annList := rfl

@[simp] theorem State.mapCounters_outbox (s : State) (f : Counters → Counters) :
    (s.mapCounters f).outbox = s.outbox := rfl

@[simp] theorem State.mapCounters_line (s : State) (f : Counters → Counters) :
    (s.mapCounters f).line = s.line := rfl

@[simp] theorem State.mapCounters_presence (s : State) (f : Counters → Counters) :
    (s.mapCounters f).presence = s.presence := rfl

@[simp] theorem State.mapCounters_points (s : State) (f : Counters → Counters) :
    (s.mapCounters f).points = s.points := rfl

@[simp] theorem State.mapCounters_buttons (s : State) (f : Counters → Counters) :
    (s.mapCounters f).buttons = s.buttons := rfl

@[simp] theorem State.mapCounters_settings (s : State) (f : Counters → Counters) :
    (s.mapCounters f).settings = s.settings := rfl

@[simp] theorem State.mapCounters_store (s : State) (f : Counters → Counters) :
    (s.mapCounters f).store = s.store := rfl

@[simp] theorem State.mapCounters_session (s : State) (f : Counters → Counters) :
    (s.mapCounters f).session = s.session := rfl

@[simp] theorem State.mapCounters_timebase (s : State) (f : Counters → Counters) :
    (s.mapCounters f).timebase = s.timebase := rfl

@[simp] theorem State.mapCounters_pins (s : State) (f : Counters → Counters) :
    (s.mapCounters f).pins = s.pins := rfl

@[simp] theorem State.mapCounters_pending (s : State) (f : Counters → Counters) :
    (s.mapCounters f).pending = s.pending := rfl

@[simp] theorem State.mapCounters_port_slot (s : State) (f : Counters → Counters) :
    (s.mapCounters f).port.slot = s.port.slot := rfl

@[simp] theorem State.mapCounters_port_shifted (s : State) (f : Counters → Counters) :
    (s.mapCounters f).port.shifted = s.port.shifted := rfl

@[simp] theorem State.mapCounters_port_selection (s : State) (f : Counters → Counters) :
    (s.mapCounters f).port.selection = s.port.selection := rfl

@[simp] theorem State.mapCounters_port_latches (s : State) (f : Counters → Counters) :
    (s.mapCounters f).port.latches = s.port.latches := rfl

@[simp] theorem State.mapCounters_port_cause (s : State) (f : Counters → Counters) :
    (s.mapCounters f).port.cause = s.port.cause := rfl

/-! `State.countVeto` -/

@[simp] theorem State.countVeto_eq (s : State) (b : Bool) :
    s.countVeto b = s.mapCounters fun c => { c with vetosDriven := countIf b c.vetosDriven } := rfl

/-! `State.countTicks` -/

@[simp] theorem State.countTicks_power (s : State) (n : Nat) : (s.countTicks n).power = s.power := rfl

@[simp] theorem State.countTicks_station (s : State) (n : Nat) : (s.countTicks n).station = s.station := rfl

@[simp] theorem State.countTicks_lineCount (s : State) (n : Nat) : (s.countTicks n).lineCount = s.lineCount := rfl

@[simp] theorem State.countTicks_annList (s : State) (n : Nat) : (s.countTicks n).annList = s.annList := rfl

@[simp] theorem State.countTicks_outbox (s : State) (n : Nat) : (s.countTicks n).outbox = s.outbox := rfl

@[simp] theorem State.countTicks_line (s : State) (n : Nat) : (s.countTicks n).line = s.line := rfl

@[simp] theorem State.countTicks_presence (s : State) (n : Nat) : (s.countTicks n).presence = s.presence := rfl

@[simp] theorem State.countTicks_points (s : State) (n : Nat) : (s.countTicks n).points = s.points := rfl

@[simp] theorem State.countTicks_buttons (s : State) (n : Nat) : (s.countTicks n).buttons = s.buttons := rfl

@[simp] theorem State.countTicks_settings (s : State) (n : Nat) : (s.countTicks n).settings = s.settings := rfl

@[simp] theorem State.countTicks_store (s : State) (n : Nat) : (s.countTicks n).store = s.store := rfl

@[simp] theorem State.countTicks_session (s : State) (n : Nat) : (s.countTicks n).session = s.session := rfl

@[simp] theorem State.countTicks_port (s : State) (n : Nat) : (s.countTicks n).port = s.port := rfl

@[simp] theorem State.countTicks_pins (s : State) (n : Nat) : (s.countTicks n).pins = s.pins := rfl

@[simp] theorem State.countTicks_pending (s : State) (n : Nat) : (s.countTicks n).pending = s.pending := rfl

@[simp] theorem State.countTicks_timebase_clock (s : State) (n : Nat) :
    (s.countTicks n).timebase.clock = s.timebase.clock := rfl

@[simp] theorem State.countTicks_timebase_sampleNext (s : State) (n : Nat) :
    (s.countTicks n).timebase.sampleNext = s.timebase.sampleNext := rfl

@[simp] theorem State.countTicks_timebase_flashPhase (s : State) (n : Nat) :
    (s.countTicks n).timebase.flashPhase = s.timebase.flashPhase := rfl

@[simp] theorem State.countTicks_timebase_burnClocks (s : State) (n : Nat) :
    (s.countTicks n).timebase.burnClocks = s.timebase.burnClocks := rfl

@[simp] theorem State.countTicks_timebase_flashTicks (s : State) (n : Nat) :
    (s.countTicks n).timebase.flashTicks = s.timebase.flashTicks + n := rfl

/-! `State.setPeer` -/

@[simp] theorem State.setPeer_power (s : State) (n : StationNo) (st : PeerState) :
    (s.setPeer n st).power = s.power := rfl

@[simp] theorem State.setPeer_station (s : State) (n : StationNo) (st : PeerState) :
    (s.setPeer n st).station = s.station := rfl

@[simp] theorem State.setPeer_lineCount (s : State) (n : StationNo) (st : PeerState) :
    (s.setPeer n st).lineCount = s.lineCount := rfl

@[simp] theorem State.setPeer_annList (s : State) (n : StationNo) (st : PeerState) :
    (s.setPeer n st).annList = s.annList := rfl

@[simp] theorem State.setPeer_outbox (s : State) (n : StationNo) (st : PeerState) :
    (s.setPeer n st).outbox = s.outbox := rfl

@[simp] theorem State.setPeer_line (s : State) (n : StationNo) (st : PeerState) :
    (s.setPeer n st).line = s.line := rfl

@[simp] theorem State.setPeer_points (s : State) (n : StationNo) (st : PeerState) :
    (s.setPeer n st).points = s.points := rfl

@[simp] theorem State.setPeer_buttons (s : State) (n : StationNo) (st : PeerState) :
    (s.setPeer n st).buttons = s.buttons := rfl

@[simp] theorem State.setPeer_settings (s : State) (n : StationNo) (st : PeerState) :
    (s.setPeer n st).settings = s.settings := rfl

@[simp] theorem State.setPeer_store (s : State) (n : StationNo) (st : PeerState) :
    (s.setPeer n st).store = s.store := rfl

@[simp] theorem State.setPeer_session (s : State) (n : StationNo) (st : PeerState) :
    (s.setPeer n st).session = s.session := rfl

@[simp] theorem State.setPeer_timebase (s : State) (n : StationNo) (st : PeerState) :
    (s.setPeer n st).timebase = s.timebase := rfl

@[simp] theorem State.setPeer_pins (s : State) (n : StationNo) (st : PeerState) :
    (s.setPeer n st).pins = s.pins := rfl

@[simp] theorem State.setPeer_pending (s : State) (n : StationNo) (st : PeerState) :
    (s.setPeer n st).pending = s.pending := rfl

@[simp] theorem State.setPeer_port_slot (s : State) (n : StationNo) (st : PeerState) :
    (s.setPeer n st).port.slot = s.port.slot := rfl

@[simp] theorem State.setPeer_port_shifted (s : State) (n : StationNo) (st : PeerState) :
    (s.setPeer n st).port.shifted = s.port.shifted := rfl

@[simp] theorem State.setPeer_port_selection (s : State) (n : StationNo) (st : PeerState) :
    (s.setPeer n st).port.selection = s.port.selection := rfl

@[simp] theorem State.setPeer_port_counters (s : State) (n : StationNo) (st : PeerState) :
    (s.setPeer n st).port.counters = s.port.counters := rfl

@[simp] theorem State.setPeer_port_cause (s : State) (n : StationNo) (st : PeerState) :
    (s.setPeer n st).port.cause = s.port.cause := rfl

/-! `State.clearSilence` -/

@[simp] theorem State.clearSilence_power (s : State) (n : StationNo) :
    (s.clearSilence n).power = s.power := rfl

@[simp] theorem State.clearSilence_station (s : State) (n : StationNo) :
    (s.clearSilence n).station = s.station := rfl

@[simp] theorem State.clearSilence_lineCount (s : State) (n : StationNo) :
    (s.clearSilence n).lineCount = s.lineCount := rfl

@[simp] theorem State.clearSilence_annList (s : State) (n : StationNo) :
    (s.clearSilence n).annList = s.annList := rfl

@[simp] theorem State.clearSilence_outbox (s : State) (n : StationNo) :
    (s.clearSilence n).outbox = s.outbox := rfl

@[simp] theorem State.clearSilence_line (s : State) (n : StationNo) :
    (s.clearSilence n).line = s.line := rfl

@[simp] theorem State.clearSilence_points (s : State) (n : StationNo) :
    (s.clearSilence n).points = s.points := rfl

@[simp] theorem State.clearSilence_buttons (s : State) (n : StationNo) :
    (s.clearSilence n).buttons = s.buttons := rfl

@[simp] theorem State.clearSilence_settings (s : State) (n : StationNo) :
    (s.clearSilence n).settings = s.settings := rfl

@[simp] theorem State.clearSilence_store (s : State) (n : StationNo) :
    (s.clearSilence n).store = s.store := rfl

@[simp] theorem State.clearSilence_session (s : State) (n : StationNo) :
    (s.clearSilence n).session = s.session := rfl

@[simp] theorem State.clearSilence_timebase (s : State) (n : StationNo) :
    (s.clearSilence n).timebase = s.timebase := rfl

@[simp] theorem State.clearSilence_port (s : State) (n : StationNo) :
    (s.clearSilence n).port = s.port := rfl

@[simp] theorem State.clearSilence_pins (s : State) (n : StationNo) :
    (s.clearSilence n).pins = s.pins := rfl

@[simp] theorem State.clearSilence_pending (s : State) (n : StationNo) :
    (s.clearSilence n).pending = s.pending := rfl

/-! `State.forgetPeers` -/

@[simp] theorem State.forgetPeers_power (s : State) :
    s.forgetPeers.power = s.power := rfl

@[simp] theorem State.forgetPeers_station (s : State) :
    s.forgetPeers.station = s.station := rfl

@[simp] theorem State.forgetPeers_lineCount (s : State) :
    s.forgetPeers.lineCount = s.lineCount := rfl

@[simp] theorem State.forgetPeers_annList (s : State) :
    s.forgetPeers.annList = s.annList := rfl

@[simp] theorem State.forgetPeers_outbox (s : State) :
    s.forgetPeers.outbox = s.outbox := rfl

@[simp] theorem State.forgetPeers_line (s : State) :
    s.forgetPeers.line = s.line := rfl

@[simp] theorem State.forgetPeers_presence (s : State) :
    s.forgetPeers.presence = { s.presence with peers := Vector.replicate 32 Peer.reset } := rfl

@[simp] theorem State.forgetPeers_points (s : State) :
    s.forgetPeers.points = s.points := rfl

@[simp] theorem State.forgetPeers_buttons (s : State) :
    s.forgetPeers.buttons = s.buttons := rfl

@[simp] theorem State.forgetPeers_settings (s : State) :
    s.forgetPeers.settings = s.settings := rfl

@[simp] theorem State.forgetPeers_store (s : State) :
    s.forgetPeers.store = s.store := rfl

@[simp] theorem State.forgetPeers_session (s : State) :
    s.forgetPeers.session = s.session := rfl

@[simp] theorem State.forgetPeers_timebase (s : State) :
    s.forgetPeers.timebase = s.timebase := rfl

@[simp] theorem State.forgetPeers_pins (s : State) :
    s.forgetPeers.pins = s.pins := rfl

@[simp] theorem State.forgetPeers_pending (s : State) :
    s.forgetPeers.pending = s.pending := rfl

@[simp] theorem State.forgetPeers_port_slot (s : State) :
    s.forgetPeers.port.slot = s.port.slot := rfl

@[simp] theorem State.forgetPeers_port_shifted (s : State) :
    s.forgetPeers.port.shifted = s.port.shifted := rfl

@[simp] theorem State.forgetPeers_port_selection (s : State) :
    s.forgetPeers.port.selection = s.port.selection := rfl

@[simp] theorem State.forgetPeers_port_counters (s : State) :
    s.forgetPeers.port.counters = s.port.counters := rfl

@[simp] theorem State.forgetPeers_port_cause (s : State) :
    s.forgetPeers.port.cause = s.port.cause := rfl

/-! `State.putQuiet` -/

@[simp] theorem State.putQuiet_power (s : State) (q : Nat) :
    (s.putQuiet q).power = s.power := rfl

@[simp] theorem State.putQuiet_station (s : State) (q : Nat) :
    (s.putQuiet q).station = s.station := rfl

@[simp] theorem State.putQuiet_lineCount (s : State) (q : Nat) :
    (s.putQuiet q).lineCount = s.lineCount := rfl

@[simp] theorem State.putQuiet_annList (s : State) (q : Nat) :
    (s.putQuiet q).annList = s.annList := rfl

@[simp] theorem State.putQuiet_outbox (s : State) (q : Nat) :
    (s.putQuiet q).outbox = s.outbox := rfl

@[simp] theorem State.putQuiet_line (s : State) (q : Nat) :
    (s.putQuiet q).line = s.line := rfl

@[simp] theorem State.putQuiet_presence (s : State) (q : Nat) :
    (s.putQuiet q).presence = { s.presence with quiet := q } := rfl

@[simp] theorem State.putQuiet_points (s : State) (q : Nat) :
    (s.putQuiet q).points = s.points := rfl

@[simp] theorem State.putQuiet_buttons (s : State) (q : Nat) :
    (s.putQuiet q).buttons = s.buttons := rfl

@[simp] theorem State.putQuiet_settings (s : State) (q : Nat) :
    (s.putQuiet q).settings = s.settings := rfl

@[simp] theorem State.putQuiet_store (s : State) (q : Nat) :
    (s.putQuiet q).store = s.store := rfl

@[simp] theorem State.putQuiet_session (s : State) (q : Nat) :
    (s.putQuiet q).session = s.session := rfl

@[simp] theorem State.putQuiet_timebase (s : State) (q : Nat) :
    (s.putQuiet q).timebase = s.timebase := rfl

@[simp] theorem State.putQuiet_port (s : State) (q : Nat) :
    (s.putQuiet q).port = s.port := rfl

@[simp] theorem State.putQuiet_pins (s : State) (q : Nat) :
    (s.putQuiet q).pins = s.pins := rfl

@[simp] theorem State.putQuiet_pending (s : State) (q : Nat) :
    (s.putQuiet q).pending = s.pending := rfl

/-! `State.mapPoint` -/

@[simp] theorem State.mapPoint_power (s : State) (p : LocalPoint) (f : Point → Point) :
    (s.mapPoint p f).power = s.power := rfl

@[simp] theorem State.mapPoint_station (s : State) (p : LocalPoint) (f : Point → Point) :
    (s.mapPoint p f).station = s.station := rfl

@[simp] theorem State.mapPoint_lineCount (s : State) (p : LocalPoint) (f : Point → Point) :
    (s.mapPoint p f).lineCount = s.lineCount := rfl

@[simp] theorem State.mapPoint_annList (s : State) (p : LocalPoint) (f : Point → Point) :
    (s.mapPoint p f).annList = s.annList := rfl

@[simp] theorem State.mapPoint_outbox (s : State) (p : LocalPoint) (f : Point → Point) :
    (s.mapPoint p f).outbox = s.outbox := rfl

@[simp] theorem State.mapPoint_line (s : State) (p : LocalPoint) (f : Point → Point) :
    (s.mapPoint p f).line = s.line := rfl

@[simp] theorem State.mapPoint_presence (s : State) (p : LocalPoint) (f : Point → Point) :
    (s.mapPoint p f).presence = s.presence := rfl

@[simp] theorem State.mapPoint_points (s : State) (p : LocalPoint) (f : Point → Point) :
    (s.mapPoint p f).points = update s.points p f := rfl

@[simp] theorem State.mapPoint_buttons (s : State) (p : LocalPoint) (f : Point → Point) :
    (s.mapPoint p f).buttons = s.buttons := rfl

@[simp] theorem State.mapPoint_settings (s : State) (p : LocalPoint) (f : Point → Point) :
    (s.mapPoint p f).settings = s.settings := rfl

@[simp] theorem State.mapPoint_store (s : State) (p : LocalPoint) (f : Point → Point) :
    (s.mapPoint p f).store = s.store := rfl

@[simp] theorem State.mapPoint_session (s : State) (p : LocalPoint) (f : Point → Point) :
    (s.mapPoint p f).session = s.session := rfl

@[simp] theorem State.mapPoint_timebase (s : State) (p : LocalPoint) (f : Point → Point) :
    (s.mapPoint p f).timebase = s.timebase := rfl

@[simp] theorem State.mapPoint_port (s : State) (p : LocalPoint) (f : Point → Point) :
    (s.mapPoint p f).port = s.port := rfl

@[simp] theorem State.mapPoint_pins (s : State) (p : LocalPoint) (f : Point → Point) :
    (s.mapPoint p f).pins = s.pins := rfl

@[simp] theorem State.mapPoint_pending (s : State) (p : LocalPoint) (f : Point → Point) :
    (s.mapPoint p f).pending = s.pending := rfl

/-! `State.enterActive` -/

@[simp] theorem State.enterActive_power (s : State) :
    s.enterActive.power = s.power := rfl

@[simp] theorem State.enterActive_station (s : State) :
    s.enterActive.station = .active := rfl

@[simp] theorem State.enterActive_lineCount (s : State) :
    s.enterActive.lineCount = s.lineCount := rfl

@[simp] theorem State.enterActive_annList (s : State) :
    s.enterActive.annList = s.annList := rfl

@[simp] theorem State.enterActive_outbox (s : State) :
    s.enterActive.outbox = s.outbox := rfl

@[simp] theorem State.enterActive_line (s : State) :
    s.enterActive.line = s.line := rfl

@[simp] theorem State.enterActive_presence (s : State) :
    s.enterActive.presence = { s.presence with quiet := 0 } := rfl

@[simp] theorem State.enterActive_points (s : State) :
    s.enterActive.points = s.points := rfl

@[simp] theorem State.enterActive_buttons (s : State) :
    s.enterActive.buttons = s.buttons := rfl

@[simp] theorem State.enterActive_settings (s : State) :
    s.enterActive.settings = s.settings := rfl

@[simp] theorem State.enterActive_store (s : State) :
    s.enterActive.store = s.store := rfl

@[simp] theorem State.enterActive_session (s : State) :
    s.enterActive.session = s.session := rfl

@[simp] theorem State.enterActive_timebase (s : State) :
    s.enterActive.timebase = s.timebase := rfl

@[simp] theorem State.enterActive_pins (s : State) :
    s.enterActive.pins = s.pins := rfl

@[simp] theorem State.enterActive_pending (s : State) :
    s.enterActive.pending = s.pending := rfl

@[simp] theorem State.enterActive_port_slot (s : State) :
    s.enterActive.port.slot = s.port.slot := rfl

@[simp] theorem State.enterActive_port_shifted (s : State) :
    s.enterActive.port.shifted = s.port.shifted := rfl

@[simp] theorem State.enterActive_port_selection (s : State) :
    s.enterActive.port.selection = s.port.selection := rfl

@[simp] theorem State.enterActive_port_counters (s : State) :
    s.enterActive.port.counters = s.port.counters := rfl

@[simp] theorem State.enterActive_port_cause (s : State) :
    s.enterActive.port.cause = s.port.cause := rfl

/-! `State.discardWalk` -/

@[simp] theorem State.discardWalk_power (s : State) (n : StationNo) :
    (s.discardWalk n).power = s.power := rfl

@[simp] theorem State.discardWalk_station (s : State) (n : StationNo) :
    (s.discardWalk n).station = s.station := rfl

@[simp] theorem State.discardWalk_lineCount (s : State) (n : StationNo) :
    (s.discardWalk n).lineCount = s.lineCount := rfl

@[simp] theorem State.discardWalk_annList (s : State) (n : StationNo) :
    (s.discardWalk n).annList = { s.annList with walks := s.annList.walks.filter fun w => w.target != n } := rfl

@[simp] theorem State.discardWalk_outbox (s : State) (n : StationNo) :
    (s.discardWalk n).outbox = s.outbox.withdraw (.transferRoll n) := rfl

@[simp] theorem State.discardWalk_line (s : State) (n : StationNo) :
    (s.discardWalk n).line = s.line := rfl

@[simp] theorem State.discardWalk_presence (s : State) (n : StationNo) :
    (s.discardWalk n).presence = s.presence := rfl

@[simp] theorem State.discardWalk_points (s : State) (n : StationNo) :
    (s.discardWalk n).points = s.points := rfl

@[simp] theorem State.discardWalk_buttons (s : State) (n : StationNo) :
    (s.discardWalk n).buttons = s.buttons := rfl

@[simp] theorem State.discardWalk_settings (s : State) (n : StationNo) :
    (s.discardWalk n).settings = s.settings := rfl

@[simp] theorem State.discardWalk_store (s : State) (n : StationNo) :
    (s.discardWalk n).store = s.store := rfl

@[simp] theorem State.discardWalk_session (s : State) (n : StationNo) :
    (s.discardWalk n).session = s.session := rfl

@[simp] theorem State.discardWalk_timebase (s : State) (n : StationNo) :
    (s.discardWalk n).timebase = s.timebase := rfl

@[simp] theorem State.discardWalk_port (s : State) (n : StationNo) :
    (s.discardWalk n).port = s.port := rfl

@[simp] theorem State.discardWalk_pins (s : State) (n : StationNo) :
    (s.discardWalk n).pins = s.pins := rfl

@[simp] theorem State.discardWalk_pending (s : State) (n : StationNo) :
    (s.discardWalk n).pending = s.pending := rfl

/-! `State.retryJoin` -/

@[simp] theorem State.retryJoin_power (s : State) :
    s.retryJoin.power = s.power := rfl

@[simp] theorem State.retryJoin_station (s : State) :
    s.retryJoin.station = .joining .asking := rfl

@[simp] theorem State.retryJoin_lineCount (s : State) :
    s.retryJoin.lineCount = s.lineCount := rfl

@[simp] theorem State.retryJoin_annList (s : State) :
    s.retryJoin.annList = { records := [], overflow := false, walks := [] } := rfl

@[simp] theorem State.retryJoin_outbox (s : State) :
    s.retryJoin.outbox = s.outbox.joinOffer .retry := rfl

@[simp] theorem State.retryJoin_line (s : State) :
    s.retryJoin.line = s.line := rfl

@[simp] theorem State.retryJoin_presence (s : State) :
    s.retryJoin.presence = s.presence := rfl

@[simp] theorem State.retryJoin_points (s : State) :
    s.retryJoin.points = s.points := rfl

@[simp] theorem State.retryJoin_buttons (s : State) :
    s.retryJoin.buttons = s.buttons := rfl

@[simp] theorem State.retryJoin_settings (s : State) :
    s.retryJoin.settings = s.settings := rfl

@[simp] theorem State.retryJoin_store (s : State) :
    s.retryJoin.store = s.store := rfl

@[simp] theorem State.retryJoin_session (s : State) :
    s.retryJoin.session = s.session := rfl

@[simp] theorem State.retryJoin_timebase (s : State) :
    s.retryJoin.timebase = s.timebase := rfl

@[simp] theorem State.retryJoin_pins (s : State) :
    s.retryJoin.pins = s.pins := rfl

@[simp] theorem State.retryJoin_pending (s : State) :
    s.retryJoin.pending = s.pending := rfl

@[simp] theorem State.retryJoin_port_slot (s : State) :
    s.retryJoin.port.slot = s.port.slot := rfl

@[simp] theorem State.retryJoin_port_shifted (s : State) :
    s.retryJoin.port.shifted = s.port.shifted := rfl

@[simp] theorem State.retryJoin_port_selection (s : State) :
    s.retryJoin.port.selection = s.port.selection := rfl

@[simp] theorem State.retryJoin_port_counters (s : State) :
    s.retryJoin.port.counters = s.port.counters := rfl

@[simp] theorem State.retryJoin_port_cause (s : State) :
    s.retryJoin.port.cause = s.port.cause := rfl

/-! `State.enterJoining` -/

@[simp] theorem State.enterJoining_power (s : State) (r : Reason) :
    (s.enterJoining r).power = s.power := rfl

@[simp] theorem State.enterJoining_station (s : State) (r : Reason) :
    (s.enterJoining r).station = .joining .asking := rfl

@[simp] theorem State.enterJoining_lineCount (s : State) (r : Reason) :
    (s.enterJoining r).lineCount = s.lineCount := rfl

@[simp] theorem State.enterJoining_annList (s : State) (r : Reason) :
    (s.enterJoining r).annList = { records := [], overflow := false, walks := [] } := rfl

@[simp] theorem State.enterJoining_outbox (s : State) (r : Reason) :
    (s.enterJoining r).outbox = { entries := [⟨.join r, false⟩], owed := Vector.replicate 8 false } := rfl

@[simp] theorem State.enterJoining_line (s : State) (r : Reason) :
    (s.enterJoining r).line = { s.line with strikes := strikesOnLeaving s.station s.line.strikes } := rfl

@[simp] theorem State.enterJoining_presence (s : State) (r : Reason) :
    (s.enterJoining r).presence = { s.presence with peers := Vector.replicate 32 Peer.reset } := rfl

@[simp] theorem State.enterJoining_points (s : State) (r : Reason) :
    (s.enterJoining r).points = s.points := rfl

@[simp] theorem State.enterJoining_buttons (s : State) (r : Reason) :
    (s.enterJoining r).buttons = s.buttons := rfl

@[simp] theorem State.enterJoining_settings (s : State) (r : Reason) :
    (s.enterJoining r).settings = s.settings := rfl

@[simp] theorem State.enterJoining_store (s : State) (r : Reason) :
    (s.enterJoining r).store = s.store := rfl

@[simp] theorem State.enterJoining_session (s : State) (r : Reason) :
    (s.enterJoining r).session = s.session := rfl

@[simp] theorem State.enterJoining_timebase (s : State) (r : Reason) :
    (s.enterJoining r).timebase = s.timebase := rfl

@[simp] theorem State.enterJoining_pins (s : State) (r : Reason) :
    (s.enterJoining r).pins = s.pins := rfl

@[simp] theorem State.enterJoining_pending (s : State) (r : Reason) :
    (s.enterJoining r).pending = s.pending := rfl

@[simp] theorem State.enterJoining_port_slot (s : State) (r : Reason) :
    (s.enterJoining r).port.slot = s.port.slot := rfl

@[simp] theorem State.enterJoining_port_shifted (s : State) (r : Reason) :
    (s.enterJoining r).port.shifted = s.port.shifted := rfl

@[simp] theorem State.enterJoining_port_selection (s : State) (r : Reason) :
    (s.enterJoining r).port.selection = s.port.selection := rfl

@[simp] theorem State.enterJoining_port_cause (s : State) (r : Reason) :
    (s.enterJoining r).port.cause = s.port.cause := rfl

/-! `State.enterMuted` -/

@[simp] theorem State.enterMuted_power (s : State) :
    s.enterMuted.power = s.power := rfl

@[simp] theorem State.enterMuted_station (s : State) :
    s.enterMuted.station = .muted 0 false := rfl

@[simp] theorem State.enterMuted_lineCount (s : State) :
    s.enterMuted.lineCount = s.lineCount := rfl

@[simp] theorem State.enterMuted_annList (s : State) :
    s.enterMuted.annList = { s.annList with walks := [] } := rfl

@[simp] theorem State.enterMuted_outbox (s : State) :
    s.enterMuted.outbox = Outbox.reset := rfl

@[simp] theorem State.enterMuted_line (s : State) :
    s.enterMuted.line = s.line := rfl

@[simp] theorem State.enterMuted_presence (s : State) :
    s.enterMuted.presence = s.presence := rfl

@[simp] theorem State.enterMuted_points (s : State) :
    s.enterMuted.points = s.points := rfl

@[simp] theorem State.enterMuted_buttons (s : State) :
    s.enterMuted.buttons = s.buttons := rfl

@[simp] theorem State.enterMuted_settings (s : State) :
    s.enterMuted.settings = s.settings := rfl

@[simp] theorem State.enterMuted_store (s : State) :
    s.enterMuted.store = s.store := rfl

@[simp] theorem State.enterMuted_session (s : State) :
    s.enterMuted.session = s.session := rfl

@[simp] theorem State.enterMuted_timebase (s : State) :
    s.enterMuted.timebase = s.timebase := rfl

@[simp] theorem State.enterMuted_pins (s : State) :
    s.enterMuted.pins = s.pins := rfl

@[simp] theorem State.enterMuted_pending (s : State) :
    s.enterMuted.pending = s.pending := rfl

@[simp] theorem State.enterMuted_port_slot (s : State) :
    s.enterMuted.port.slot = s.port.slot := rfl

@[simp] theorem State.enterMuted_port_shifted (s : State) :
    s.enterMuted.port.shifted = s.port.shifted := rfl

@[simp] theorem State.enterMuted_port_selection (s : State) :
    s.enterMuted.port.selection = s.port.selection := rfl

@[simp] theorem State.enterMuted_port_cause (s : State) :
    s.enterMuted.port.cause = s.port.cause := rfl

/-! `State.enterDiscord` -/

@[simp] theorem State.enterDiscord_power (s : State) :
    s.enterDiscord.power = s.power := rfl

@[simp] theorem State.enterDiscord_station (s : State) :
    s.enterDiscord.station = .discord := rfl

@[simp] theorem State.enterDiscord_lineCount (s : State) :
    s.enterDiscord.lineCount = s.lineCount := rfl

@[simp] theorem State.enterDiscord_annList (s : State) :
    s.enterDiscord.annList = { s.annList with walks := [] } := rfl

@[simp] theorem State.enterDiscord_outbox (s : State) :
    s.enterDiscord.outbox = Outbox.reset := rfl

@[simp] theorem State.enterDiscord_line (s : State) :
    s.enterDiscord.line = { s.line with strikes := strikesOnLeaving s.station s.line.strikes } := rfl

@[simp] theorem State.enterDiscord_presence (s : State) :
    s.enterDiscord.presence = s.presence := rfl

@[simp] theorem State.enterDiscord_points (s : State) :
    s.enterDiscord.points = s.points := rfl

@[simp] theorem State.enterDiscord_buttons (s : State) :
    s.enterDiscord.buttons = s.buttons := rfl

@[simp] theorem State.enterDiscord_settings (s : State) :
    s.enterDiscord.settings = s.settings := rfl

@[simp] theorem State.enterDiscord_store (s : State) :
    s.enterDiscord.store = s.store := rfl

@[simp] theorem State.enterDiscord_session (s : State) :
    s.enterDiscord.session = s.session := rfl

@[simp] theorem State.enterDiscord_timebase (s : State) :
    s.enterDiscord.timebase = s.timebase := rfl

@[simp] theorem State.enterDiscord_pins (s : State) :
    s.enterDiscord.pins = s.pins := rfl

@[simp] theorem State.enterDiscord_pending (s : State) :
    s.enterDiscord.pending = s.pending := rfl

@[simp] theorem State.enterDiscord_port_slot (s : State) :
    s.enterDiscord.port.slot = s.port.slot := rfl

@[simp] theorem State.enterDiscord_port_shifted (s : State) :
    s.enterDiscord.port.shifted = s.port.shifted := rfl

@[simp] theorem State.enterDiscord_port_selection (s : State) :
    s.enterDiscord.port.selection = s.port.selection := rfl

@[simp] theorem State.enterDiscord_port_counters (s : State) :
    s.enterDiscord.port.counters = s.port.counters := rfl

@[simp] theorem State.enterDiscord_port_cause (s : State) :
    s.enterDiscord.port.cause = s.port.cause := rfl

/-! `State.becomeAdmitted` -/

@[simp] theorem State.becomeAdmitted_power (s : State) :
    s.becomeAdmitted.power = s.power := rfl

@[simp] theorem State.becomeAdmitted_station (s : State) :
    s.becomeAdmitted.station = .joining (.admitted 0) := rfl

@[simp] theorem State.becomeAdmitted_lineCount (s : State) :
    s.becomeAdmitted.lineCount = s.lineCount + 1 := rfl

@[simp] theorem State.becomeAdmitted_annList (s : State) :
    s.becomeAdmitted.annList = s.annList := rfl

@[simp] theorem State.becomeAdmitted_outbox (s : State) :
    s.becomeAdmitted.outbox = s.outbox := rfl

@[simp] theorem State.becomeAdmitted_line (s : State) :
    s.becomeAdmitted.line = s.line := rfl

@[simp] theorem State.becomeAdmitted_presence (s : State) :
    s.becomeAdmitted.presence = s.presence := rfl

@[simp] theorem State.becomeAdmitted_points (s : State) :
    s.becomeAdmitted.points = s.points := rfl

@[simp] theorem State.becomeAdmitted_buttons (s : State) :
    s.becomeAdmitted.buttons = s.buttons := rfl

@[simp] theorem State.becomeAdmitted_settings (s : State) :
    s.becomeAdmitted.settings = s.settings := rfl

@[simp] theorem State.becomeAdmitted_store (s : State) :
    s.becomeAdmitted.store = s.store := rfl

@[simp] theorem State.becomeAdmitted_session (s : State) :
    s.becomeAdmitted.session = s.session := rfl

@[simp] theorem State.becomeAdmitted_timebase (s : State) :
    s.becomeAdmitted.timebase = s.timebase := rfl

@[simp] theorem State.becomeAdmitted_pins (s : State) :
    s.becomeAdmitted.pins = s.pins := rfl

@[simp] theorem State.becomeAdmitted_pending (s : State) :
    s.becomeAdmitted.pending = s.pending := rfl

@[simp] theorem State.becomeAdmitted_port_slot (s : State) :
    s.becomeAdmitted.port.slot = s.port.slot := rfl

@[simp] theorem State.becomeAdmitted_port_shifted (s : State) :
    s.becomeAdmitted.port.shifted = s.port.shifted := rfl

@[simp] theorem State.becomeAdmitted_port_selection (s : State) :
    s.becomeAdmitted.port.selection = s.port.selection := rfl

@[simp] theorem State.becomeAdmitted_port_counters (s : State) :
    s.becomeAdmitted.port.counters = s.port.counters := rfl

@[simp] theorem State.becomeAdmitted_port_cause (s : State) :
    s.becomeAdmitted.port.cause = s.port.cause := rfl

/-! `State.creditAccepted` -/

@[simp] theorem State.creditAccepted_power (s : State) :
    s.creditAccepted.power = s.power := rfl

@[simp] theorem State.creditAccepted_station (s : State) :
    s.creditAccepted.station = s.station := rfl

@[simp] theorem State.creditAccepted_lineCount (s : State) :
    s.creditAccepted.lineCount = s.lineCount := rfl

@[simp] theorem State.creditAccepted_annList (s : State) :
    s.creditAccepted.annList = s.annList := rfl

@[simp] theorem State.creditAccepted_outbox (s : State) :
    s.creditAccepted.outbox = s.outbox.depart := rfl

@[simp] theorem State.creditAccepted_line (s : State) :
    s.creditAccepted.line = { s.line with strikes := s.line.strikes - 1 } := rfl

@[simp] theorem State.creditAccepted_presence (s : State) :
    s.creditAccepted.presence = { s.presence with quiet := 0 } := rfl

@[simp] theorem State.creditAccepted_points (s : State) :
    s.creditAccepted.points = s.points := rfl

@[simp] theorem State.creditAccepted_buttons (s : State) :
    s.creditAccepted.buttons = s.buttons := rfl

@[simp] theorem State.creditAccepted_settings (s : State) :
    s.creditAccepted.settings = s.settings := rfl

@[simp] theorem State.creditAccepted_store (s : State) :
    s.creditAccepted.store = s.store := rfl

@[simp] theorem State.creditAccepted_session (s : State) :
    s.creditAccepted.session = s.session := rfl

@[simp] theorem State.creditAccepted_timebase (s : State) :
    s.creditAccepted.timebase = s.timebase := rfl

@[simp] theorem State.creditAccepted_port (s : State) :
    s.creditAccepted.port = s.port := rfl

@[simp] theorem State.creditAccepted_pins (s : State) :
    s.creditAccepted.pins = s.pins := rfl

@[simp] theorem State.creditAccepted_pending (s : State) :
    s.creditAccepted.pending = s.pending := rfl

/-! `State.mapSession` -/

@[simp] theorem State.mapSession_power (s : State) (f : Session → Session) :
    (s.mapSession f).power = s.power := rfl

@[simp] theorem State.mapSession_station (s : State) (f : Session → Session) :
    (s.mapSession f).station = s.station := rfl

@[simp] theorem State.mapSession_lineCount (s : State) (f : Session → Session) :
    (s.mapSession f).lineCount = s.lineCount := rfl

@[simp] theorem State.mapSession_annList (s : State) (f : Session → Session) :
    (s.mapSession f).annList = s.annList := rfl

@[simp] theorem State.mapSession_outbox (s : State) (f : Session → Session) :
    (s.mapSession f).outbox = s.outbox := rfl

@[simp] theorem State.mapSession_line (s : State) (f : Session → Session) :
    (s.mapSession f).line = s.line := rfl

@[simp] theorem State.mapSession_presence (s : State) (f : Session → Session) :
    (s.mapSession f).presence = s.presence := rfl

@[simp] theorem State.mapSession_points (s : State) (f : Session → Session) :
    (s.mapSession f).points = s.points := rfl

@[simp] theorem State.mapSession_buttons (s : State) (f : Session → Session) :
    (s.mapSession f).buttons = s.buttons := rfl

@[simp] theorem State.mapSession_settings (s : State) (f : Session → Session) :
    (s.mapSession f).settings = s.settings := rfl

@[simp] theorem State.mapSession_store (s : State) (f : Session → Session) :
    (s.mapSession f).store = s.store := rfl

@[simp] theorem State.mapSession_session (s : State) (f : Session → Session) :
    (s.mapSession f).session = f s.session := rfl

@[simp] theorem State.mapSession_timebase (s : State) (f : Session → Session) :
    (s.mapSession f).timebase = s.timebase := rfl

@[simp] theorem State.mapSession_port (s : State) (f : Session → Session) :
    (s.mapSession f).port = s.port := rfl

@[simp] theorem State.mapSession_pins (s : State) (f : Session → Session) :
    (s.mapSession f).pins = s.pins := rfl

@[simp] theorem State.mapSession_pending (s : State) (f : Session → Session) :
    (s.mapSession f).pending = s.pending := rfl

/-! `State.senseVpp` -/

@[simp] theorem State.senseVpp_power (s : State) (b : Bool) :
    (s.senseVpp b).power = s.power := rfl

@[simp] theorem State.senseVpp_station (s : State) (b : Bool) :
    (s.senseVpp b).station = s.station := rfl

@[simp] theorem State.senseVpp_lineCount (s : State) (b : Bool) :
    (s.senseVpp b).lineCount = s.lineCount := rfl

@[simp] theorem State.senseVpp_annList (s : State) (b : Bool) :
    (s.senseVpp b).annList = s.annList := rfl

@[simp] theorem State.senseVpp_outbox (s : State) (b : Bool) :
    (s.senseVpp b).outbox = s.outbox := rfl

@[simp] theorem State.senseVpp_line (s : State) (b : Bool) :
    (s.senseVpp b).line = s.line := rfl

@[simp] theorem State.senseVpp_presence (s : State) (b : Bool) :
    (s.senseVpp b).presence = s.presence := rfl

@[simp] theorem State.senseVpp_points (s : State) (b : Bool) :
    (s.senseVpp b).points = s.points := rfl

@[simp] theorem State.senseVpp_buttons (s : State) (b : Bool) :
    (s.senseVpp b).buttons = s.buttons := rfl

@[simp] theorem State.senseVpp_settings (s : State) (b : Bool) :
    (s.senseVpp b).settings = s.settings := rfl

@[simp] theorem State.senseVpp_store (s : State) (b : Bool) :
    (s.senseVpp b).store = s.store := rfl

@[simp] theorem State.senseVpp_session (s : State) (b : Bool) :
    (s.senseVpp b).session = s.session := rfl

@[simp] theorem State.senseVpp_timebase (s : State) (b : Bool) :
    (s.senseVpp b).timebase = s.timebase := rfl

@[simp] theorem State.senseVpp_port (s : State) (b : Bool) :
    (s.senseVpp b).port = s.port := rfl

@[simp] theorem State.senseVpp_pins (s : State) (b : Bool) :
    (s.senseVpp b).pins = { s.pins with vpp := b } := rfl

@[simp] theorem State.senseVpp_pending (s : State) (b : Bool) :
    (s.senseVpp b).pending = s.pending := rfl

/-! `State.respond` -/

@[simp] theorem State.respond_power (s : State) (st : Status) (code : Byte) (fields : List Byte) :
    (s.respond st code fields).power = s.power := rfl

@[simp] theorem State.respond_station (s : State) (st : Status) (code : Byte) (fields : List Byte) :
    (s.respond st code fields).station = s.station := rfl

@[simp] theorem State.respond_lineCount (s : State) (st : Status) (code : Byte) (fields : List Byte) :
    (s.respond st code fields).lineCount = s.lineCount := rfl

@[simp] theorem State.respond_annList (s : State) (st : Status) (code : Byte) (fields : List Byte) :
    (s.respond st code fields).annList = s.annList := rfl

@[simp] theorem State.respond_outbox (s : State) (st : Status) (code : Byte) (fields : List Byte) :
    (s.respond st code fields).outbox = s.outbox := rfl

@[simp] theorem State.respond_line (s : State) (st : Status) (code : Byte) (fields : List Byte) :
    (s.respond st code fields).line = s.line := rfl

@[simp] theorem State.respond_presence (s : State) (st : Status) (code : Byte) (fields : List Byte) :
    (s.respond st code fields).presence = s.presence := rfl

@[simp] theorem State.respond_points (s : State) (st : Status) (code : Byte) (fields : List Byte) :
    (s.respond st code fields).points = s.points := rfl

@[simp] theorem State.respond_buttons (s : State) (st : Status) (code : Byte) (fields : List Byte) :
    (s.respond st code fields).buttons = s.buttons := rfl

@[simp] theorem State.respond_settings (s : State) (st : Status) (code : Byte) (fields : List Byte) :
    (s.respond st code fields).settings = s.settings := rfl

@[simp] theorem State.respond_store (s : State) (st : Status) (code : Byte) (fields : List Byte) :
    (s.respond st code fields).store = s.store := rfl

@[simp] theorem State.respond_session (s : State) (st : Status) (code : Byte) (fields : List Byte) :
    (s.respond st code fields).session = s.session := rfl

@[simp] theorem State.respond_timebase (s : State) (st : Status) (code : Byte) (fields : List Byte) :
    (s.respond st code fields).timebase = s.timebase := rfl

@[simp] theorem State.respond_pins (s : State) (st : Status) (code : Byte) (fields : List Byte) :
    (s.respond st code fields).pins = s.pins := rfl

@[simp] theorem State.respond_pending (s : State) (st : Status) (code : Byte) (fields : List Byte) :
    (s.respond st code fields).pending = s.pending := rfl

@[simp] theorem State.respond_port_latches (s : State) (st : Status) (code : Byte) (fields : List Byte) :
    (s.respond st code fields).port.latches = s.port.latches := rfl

@[simp] theorem State.respond_port_counters (s : State) (st : Status) (code : Byte) (fields : List Byte) :
    (s.respond st code fields).port.counters = s.port.counters := rfl

@[simp] theorem State.respond_port_cause (s : State) (st : Status) (code : Byte) (fields : List Byte) :
    (s.respond st code fields).port.cause = s.port.cause := rfl

/-! `State.endUnserved` -/

@[simp] theorem State.endUnserved_power (s : State) :
    s.endUnserved.power = s.power := rfl

@[simp] theorem State.endUnserved_station (s : State) :
    s.endUnserved.station = s.station := rfl

@[simp] theorem State.endUnserved_lineCount (s : State) :
    s.endUnserved.lineCount = s.lineCount := rfl

@[simp] theorem State.endUnserved_annList (s : State) :
    s.endUnserved.annList = s.annList := rfl

@[simp] theorem State.endUnserved_outbox (s : State) :
    s.endUnserved.outbox = s.outbox := rfl

@[simp] theorem State.endUnserved_line (s : State) :
    s.endUnserved.line = s.line := rfl

@[simp] theorem State.endUnserved_presence (s : State) :
    s.endUnserved.presence = s.presence := rfl

@[simp] theorem State.endUnserved_points (s : State) :
    s.endUnserved.points = s.points := rfl

@[simp] theorem State.endUnserved_buttons (s : State) :
    s.endUnserved.buttons = s.buttons := rfl

@[simp] theorem State.endUnserved_settings (s : State) :
    s.endUnserved.settings = s.settings := rfl

@[simp] theorem State.endUnserved_store (s : State) :
    s.endUnserved.store = s.store := rfl

@[simp] theorem State.endUnserved_session (s : State) :
    s.endUnserved.session = s.session := rfl

@[simp] theorem State.endUnserved_timebase (s : State) :
    s.endUnserved.timebase = s.timebase := rfl

@[simp] theorem State.endUnserved_pins (s : State) :
    s.endUnserved.pins = s.pins := rfl

@[simp] theorem State.endUnserved_pending (s : State) :
    s.endUnserved.pending = s.pending := rfl

@[simp] theorem State.endUnserved_port_slot (s : State) :
    s.endUnserved.port.slot = s.port.slot := rfl

@[simp] theorem State.endUnserved_port_shifted (s : State) :
    s.endUnserved.port.shifted = s.port.shifted := rfl

@[simp] theorem State.endUnserved_port_latches (s : State) :
    s.endUnserved.port.latches = s.port.latches := rfl

@[simp] theorem State.endUnserved_port_counters (s : State) :
    s.endUnserved.port.counters = s.port.counters := rfl

@[simp] theorem State.endUnserved_port_cause (s : State) :
    s.endUnserved.port.cause = s.port.cause := rfl

/-! `State.beginSelection` -/

@[simp] theorem State.beginSelection_power (s : State) :
    s.beginSelection.power = s.power := rfl

@[simp] theorem State.beginSelection_station (s : State) :
    s.beginSelection.station = s.station := rfl

@[simp] theorem State.beginSelection_lineCount (s : State) :
    s.beginSelection.lineCount = s.lineCount := rfl

@[simp] theorem State.beginSelection_annList (s : State) :
    s.beginSelection.annList = s.annList := rfl

@[simp] theorem State.beginSelection_outbox (s : State) :
    s.beginSelection.outbox = s.outbox := rfl

@[simp] theorem State.beginSelection_line (s : State) :
    s.beginSelection.line = s.line := rfl

@[simp] theorem State.beginSelection_presence (s : State) :
    s.beginSelection.presence = s.presence := rfl

@[simp] theorem State.beginSelection_points (s : State) :
    s.beginSelection.points = s.points := rfl

@[simp] theorem State.beginSelection_buttons (s : State) :
    s.beginSelection.buttons = s.buttons := rfl

@[simp] theorem State.beginSelection_settings (s : State) :
    s.beginSelection.settings = s.settings := rfl

@[simp] theorem State.beginSelection_store (s : State) :
    s.beginSelection.store = s.store := rfl

@[simp] theorem State.beginSelection_session (s : State) :
    s.beginSelection.session = s.session := rfl

@[simp] theorem State.beginSelection_timebase (s : State) :
    s.beginSelection.timebase = s.timebase := rfl

@[simp] theorem State.beginSelection_pins (s : State) :
    s.beginSelection.pins = s.pins := rfl

@[simp] theorem State.beginSelection_pending (s : State) :
    s.beginSelection.pending = s.pending := rfl

@[simp] theorem State.beginSelection_port_slot (s : State) :
    s.beginSelection.port.slot = s.port.slot := rfl

@[simp] theorem State.beginSelection_port_latches (s : State) :
    s.beginSelection.port.latches = s.port.latches := rfl

@[simp] theorem State.beginSelection_port_counters (s : State) :
    s.beginSelection.port.counters = s.port.counters := rfl

@[simp] theorem State.beginSelection_port_cause (s : State) :
    s.beginSelection.port.cause = s.port.cause := rfl

/-! `judgeFault` -/

@[simp] theorem judgeFault_power (s t : State) : (judgeFault s t).power = t.power := rfl

@[simp] theorem judgeFault_station (s t : State) : (judgeFault s t).station = t.station := rfl

@[simp] theorem judgeFault_lineCount (s t : State) : (judgeFault s t).lineCount = t.lineCount := rfl

@[simp] theorem judgeFault_annList (s t : State) : (judgeFault s t).annList = t.annList := rfl

@[simp] theorem judgeFault_outbox (s t : State) : (judgeFault s t).outbox = t.outbox := rfl

@[simp] theorem judgeFault_line (s t : State) : (judgeFault s t).line = t.line := rfl

@[simp] theorem judgeFault_presence (s t : State) : (judgeFault s t).presence = t.presence := rfl

@[simp] theorem judgeFault_points (s t : State) : (judgeFault s t).points = t.points := rfl

@[simp] theorem judgeFault_buttons (s t : State) : (judgeFault s t).buttons = t.buttons := rfl

@[simp] theorem judgeFault_settings (s t : State) : (judgeFault s t).settings = t.settings := rfl

@[simp] theorem judgeFault_store (s t : State) : (judgeFault s t).store = t.store := rfl

@[simp] theorem judgeFault_session (s t : State) : (judgeFault s t).session = t.session := rfl

@[simp] theorem judgeFault_timebase (s t : State) : (judgeFault s t).timebase = t.timebase := rfl

@[simp] theorem judgeFault_pins (s t : State) : (judgeFault s t).pins = t.pins := rfl

@[simp] theorem judgeFault_pending (s t : State) : (judgeFault s t).pending = t.pending := rfl
@[simp] theorem judgeFault_port_slot (s t : State) : (judgeFault s t).port.slot = t.port.slot := rfl

@[simp] theorem judgeFault_port_shifted (s t : State) : (judgeFault s t).port.shifted = t.port.shifted := rfl

@[simp] theorem judgeFault_port_selection (s t : State) : (judgeFault s t).port.selection = t.port.selection := rfl

@[simp] theorem judgeFault_port_counters (s t : State) : (judgeFault s t).port.counters = t.port.counters := rfl

@[simp] theorem judgeFault_port_cause (s t : State) : (judgeFault s t).port.cause = t.port.cause := rfl

end Sys2Proof.Machine
end

