-- ==== Sys2Proof/Laws/Ops.lean ====
section
/-!
SUPPORT. What the shared operations do: the entries of a table, the counters and latches each operation writes, presence
entries, and the shape of the operations that touch one block alone.
-/

namespace Sys2Proof.Machine

/-! Tables. -/

theorem update_get {α : Type} {n : Nat} (v : Vector α n) (i j : Fin n) (f : α → α) :
    (update v i f)[j] = if j = i then f v[i] else v[j] := by
  simp only [update, Fin.getElem_fin, Vector.getElem_set]
  by_cases h : j = i
  · subst h; simp
  · rw [if_neg fun h' => h (Fin.ext h'.symm), if_neg h]

/-! Diagnostic counters and latches. -/

theorem countUp_eq_counted (c : Half) : countUp c = counted c := by
  unfold countUp counted
  split
  · rename_i h; subst h; rfl
  · rename_i h
    have h' : c.toNat ≠ 65535 := fun h'' => h (BitVec.eq_of_toNat_eq h'')
    have := c.isLt
    apply BitVec.eq_of_toNat_eq
    rw [BitVec.toNat_add, BitVec.toNat_ofNat, show BitVec.toNat (1 : Half) = 1 from rfl]
    omega

theorem countIf_eq_counted (b : Bool) (c : Half) : countIf b c = if b then counted c else c := by
  simp [countIf, countUp_eq_counted]

@[simp] theorem State.mapCounters_port_counters (s : State) (f : Counters → Counters) :
    (s.mapCounters f).port.counters = f s.port.counters := rfl

@[simp] theorem State.putList_port_latches (s : State) (rs : List Record) (o : Bool) :
    (s.putList rs o).port.latches
      = { s.port.latches with
          listChanged :=
            s.port.latches.listChanged || decide (rs ≠ s.annList.records ∨ o ≠ s.annList.overflow) } := rfl

@[simp] theorem State.enter_port_latches (s : State) (x : Station) :
    (s.enter x).port.latches = { s.port.latches with stateChanged := true } := rfl

@[simp] theorem State.enterActive_port_latches (s : State) :
    s.enterActive.port.latches = { s.port.latches with stateChanged := true } := rfl

@[simp] theorem State.enterDiscord_port_latches (s : State) :
    s.enterDiscord.port.latches = { s.port.latches with stateChanged := true } := rfl

@[simp] theorem State.enterMuted_port_latches (s : State) :
    s.enterMuted.port.latches = { s.port.latches with stateChanged := true } := rfl

@[simp] theorem State.becomeAdmitted_port_latches (s : State) :
    s.becomeAdmitted.port.latches = { s.port.latches with stateChanged := true } := rfl

@[simp] theorem State.enterJoining_stateChanged (s : State) (r : Reason) :
    (s.enterJoining r).port.latches.stateChanged = true := rfl

@[simp] theorem State.enterMuted_port_counters (s : State) :
    s.enterMuted.port.counters = { s.port.counters with mutes := countUp s.port.counters.mutes } := rfl

@[simp] theorem State.enterJoining_port_counters (s : State) (r : Reason) :
    (s.enterJoining r).port.counters
      = { s.port.counters with resyncs := countIf (decide (r = .resync)) s.port.counters.resyncs } := rfl

theorem judgeFault_port_latches (s t : State) :
    (judgeFault s t).port.latches
      = { t.port.latches with fault := t.port.latches.fault || (!s.faultOn && t.faultOn) } := rfl

@[simp] theorem judgeFault_stateChanged (s t : State) :
    (judgeFault s t).port.latches.stateChanged = t.port.latches.stateChanged := rfl

/-- FAULT depends on station state, list and points alone (R159). -/
theorem faultOn_congr {s t : State} (h1 : t.station = s.station) (h2 : t.annList.records = s.annList.records)
    (h3 : t.annList.overflow = s.annList.overflow) (h4 : t.points = s.points) : t.faultOn = s.faultOn := by
  simp only [State.faultOn, State.isActive, State.hasLossRecord, State.anyWaiting, h1, h2, h3, h4]

/-- An event that touches none of FAULT's conditions sets no FAULT latch (R160). -/
theorem judgeFault_id {s t : State} (h : t.faultOn = s.faultOn) : judgeFault s t = t := by
  simp [judgeFault, h, Port.noteFault]

/-! Settings in use. -/

theorem inUse_congr {s t : State} (h : t.settings = s.settings) : t.inUse = s.inUse := by
  simp only [State.inUse, h]

theorem own_congr {s t : State} (h : t.settings = s.settings) : t.own = s.own := by
  simp only [State.own, inUse_congr h]

theorem options_congr {s t : State} (h : t.settings = s.settings) : t.options = s.options := by
  funext g; simp only [State.options, inUse_congr h]

/-! Presence entries. -/

/-- A presence entry after one entry's state is written (R122, R123). -/
theorem State.setPeer_get (s : State) (n m : StationNo) (x : PeerState) :
    (s.setPeer n x).presence.peers[m]
      = if m = n ∧ n ≠ s.own ∧ s.peerState n ≠ x then ⟨x, 0, false⟩ else s.presence.peers[m] := by
  by_cases h : n ≠ s.own ∧ s.peerState n ≠ x
  · have hp : (s.setPeer n x).presence.peers = update s.presence.peers n fun _ => ⟨x, 0, false⟩ := by
      simp only [State.setPeer, decide_eq_true h, if_true]
    simp only [hp, update_get]
    by_cases hm : m = n
    · rw [if_pos hm, if_pos ⟨hm, h⟩]
    · rw [if_neg hm, if_neg fun h' => hm h'.1]
  · have hp : (s.setPeer n x).presence.peers = s.presence.peers := by
      simp only [State.setPeer, decide_eq_false h, Bool.false_eq_true, if_false]
    rw [hp, if_neg fun h' => h h'.2]

theorem State.setPeer_peerState (s : State) (n m : StationNo) (x : PeerState) :
    (s.setPeer n x).peerState m = if m = n ∧ n ≠ s.own then x else s.peerState m := by
  have h := s.setPeer_get n m x
  rw [State.peerState, h]
  by_cases h1 : m = n ∧ n ≠ s.own
  · obtain ⟨rfl, h2⟩ := h1
    by_cases h3 : s.peerState m = x
    · rw [if_neg fun h' => h'.2.2 h3, if_pos ⟨rfl, h2⟩]; exact h3
    · rw [if_pos ⟨rfl, h2, h3⟩, if_pos ⟨rfl, h2⟩]
  · rw [if_neg fun h' => h1 ⟨h'.1, h'.2.1⟩, if_neg h1]; rfl

@[simp] theorem State.setPeer_quiet (s : State) (n : StationNo) (x : PeerState) :
    (s.setPeer n x).presence.quiet = s.presence.quiet := by
  unfold State.setPeer; dsimp only; split <;> rfl

theorem State.clearSilence_get (s : State) (n m : StationNo) :
    (s.clearSilence n).presence.peers[m]
      = if m = n then { s.presence.peers[n] with silence := 0 } else s.presence.peers[m] := by
  simp only [State.clearSilence, update_get]

@[simp] theorem State.clearSilence_quiet (s : State) (n : StationNo) :
    (s.clearSilence n).presence.quiet = s.presence.quiet := rfl

@[simp] theorem State.clearSilence_peerState (s : State) (n m : StationNo) :
    (s.clearSilence n).peerState m = s.peerState m := by
  simp only [State.peerState, State.clearSilence_get]
  by_cases h : m = n
  · subst h; simp
  · rw [if_neg h]

/-! Operations that touch the presence table alone. -/

/-- `t` is `s` but for presence entries and their latch. -/
def State.presenceOnly (s t : State) : Prop :=
  ∃ p b, t = { s with presence := p, port := s.port.notePresence b } ∧ p.quiet = s.presence.quiet

theorem State.presenceOnly_refl (s : State) : s.presenceOnly s := ⟨s.presence, false, by simp [Port.notePresence], rfl⟩

theorem State.presenceOnly_trans {s t u : State} (h : s.presenceOnly t) (h' : t.presenceOnly u) : s.presenceOnly u := by
  obtain ⟨p, b, rfl, hp⟩ := h
  obtain ⟨q, c, rfl, hq⟩ := h'
  exact ⟨q, b || c, by simp [Port.notePresence, Bool.or_assoc], hq.trans hp⟩

theorem State.setPeer_presenceOnly (s : State) (n : StationNo) (x : PeerState) : s.presenceOnly (s.setPeer n x) :=
  ⟨_, _, rfl, s.setPeer_quiet n x⟩

theorem State.clearSilence_presenceOnly (s : State) (n : StationNo) : s.presenceOnly (s.clearSilence n) :=
  ⟨(s.clearSilence n).presence, false, by simp [State.clearSilence, Port.notePresence], rfl⟩

theorem State.noteSender_presenceOnly (s : State) (n : StationNo) : s.presenceOnly (s.noteSender n) := by
  unfold State.noteSender
  split <;> first | exact s.setPeer_presenceOnly _ _ | exact s.presenceOnly_refl

theorem State.markLost_presenceOnly (s : State) (b : PeerState) (n : StationNo) : s.presenceOnly (s.markLost b n) := by
  unfold State.markLost
  split <;> first | exact s.setPeer_presenceOnly _ _ | exact s.presenceOnly_refl

theorem State.noteTarget_presenceOnly (s : State) (r : Roll) : s.presenceOnly (s.noteTarget r) := by
  unfold State.noteTarget
  split
  · exact State.presenceOnly_trans (s.setPeer_presenceOnly _ _) (State.clearSilence_presenceOnly _ _)
  · exact s.clearSilence_presenceOnly _

theorem State.noteJoin_presenceOnly (s : State) (how : Acceptance) (n : StationNo) :
    s.presenceOnly (s.noteJoin how n) := by
  unfold State.noteJoin
  split <;> (try split) <;> first | exact s.setPeer_presenceOnly _ _ | exact s.presenceOnly_refl

/-- An accepted bulletin's presence changes touch nothing else. -/
theorem State.presenceEffects_presenceOnly (s : State) (how : Acceptance) (f : Frame) :
    s.presenceOnly (s.presenceEffects how f) := by
  unfold State.presenceEffects
  split
  · exact s.noteJoin_presenceOnly _ _
  · exact State.presenceOnly_trans (s.noteSender_presenceOnly _) (State.markLost_presenceOnly _ _ _)
  · exact State.presenceOnly_trans (s.noteSender_presenceOnly _) (State.noteTarget_presenceOnly _ _)
  all_goals exact s.noteSender_presenceOnly _

theorem State.markFromList_presenceOnly (s : State) (n : StationNo) : s.presenceOnly (s.markFromList n) := by
  unfold State.markFromList
  split <;> (try split) <;> first | exact s.setPeer_presenceOnly _ _ | exact s.presenceOnly_refl

theorem State.presenceOnly_foldl {α : Type} (f : State → α → State) (h : ∀ (s : State) x, s.presenceOnly (f s x))
    (l : List α) (s : State) : s.presenceOnly (l.foldl f s) := by
  induction l generalizing s with
  | nil => exact s.presenceOnly_refl
  | cons x xs ih => exact State.presenceOnly_trans (h s x) (ih _)

/-- The marks of R126 touch nothing but the presence table. -/
theorem State.markFromLossRecords_presenceOnly (s : State) : s.presenceOnly s.markFromLossRecords :=
  State.presenceOnly_foldl _ State.markFromList_presenceOnly _ _

theorem State.noteHeard_presenceOnly (s : State) (f : Frame) : s.presenceOnly (s.noteHeard f) := by
  unfold State.noteHeard
  repeat' split
  all_goals first | exact s.setPeer_presenceOnly _ _ | exact s.presenceOnly_refl

/-! Operations that touch points and outbox alone. -/

/-- `t` is `s` but for local points and outbox. -/
def State.pointsOnly (s t : State) : Prop := ∃ p o, t = { s with points := p, outbox := o }

theorem State.pointsOnly_refl (s : State) : s.pointsOnly s := ⟨s.points, s.outbox, rfl⟩

theorem State.pointsOnly_trans {s t u : State} (h : s.pointsOnly t) (h' : t.pointsOnly u) : s.pointsOnly u := by
  obtain ⟨p, o, rfl⟩ := h
  obtain ⟨p', o', rfl⟩ := h'
  exact ⟨p', o', rfl⟩

theorem State.pointsOnly_foldl {α : Type} (f : State → α → State) (h : ∀ (s : State) x, s.pointsOnly (f s x))
    (l : List α) (s : State) : s.pointsOnly (l.foldl f s) := by
  induction l generalizing s with
  | nil => exact s.pointsOnly_refl
  | cons x xs ih => exact State.pointsOnly_trans (h s x) (ih _)

theorem State.mapPoint_pointsOnly (s : State) (p : LocalPoint) (f : Point → Point) : s.pointsOnly (s.mapPoint p f) :=
  ⟨_, s.outbox, rfl⟩

theorem State.offer_pointsOnly (s : State) (f : Outbox → Outbox) : s.pointsOnly (s.offer f) := ⟨s.points, _, rfl⟩

theorem State.requeuePoint_pointsOnly (s : State) (p : LocalPoint) : s.pointsOnly (s.requeuePoint p) := by
  unfold State.requeuePoint
  dsimp only
  split
  · exact State.pointsOnly_trans (s.mapPoint_pointsOnly _ _) (State.offer_pointsOnly _ _)
  · exact s.pointsOnly_refl

/-- The requeue of R144 touches points and outbox alone. -/
theorem State.requeueWaiting_pointsOnly (s : State) : s.pointsOnly s.requeueWaiting := by
  unfold State.requeueWaiting
  split
  · exact State.pointsOnly_foldl _ State.requeuePoint_pointsOnly _ _
  · exact s.pointsOnly_refl

theorem State.reconcilePoint_pointsOnly (s : State) (p : LocalPoint) : s.pointsOnly (s.reconcilePoint p) := by
  unfold State.reconcilePoint
  exact State.pointsOnly_trans (s.mapPoint_pointsOnly _ _) (State.offer_pointsOnly _ _)

/-- Reconciliation touches points and outbox alone. -/
theorem State.reconcile_pointsOnly (s : State) : s.pointsOnly s.reconcile :=
  State.pointsOnly_foldl _ State.reconcilePoint_pointsOnly _ _

theorem State.requeueLoss_pointsOnly (s : State) (n : StationNo) : s.pointsOnly (s.requeueLoss n) := by
  unfold State.requeueLoss
  split
  · exact s.offer_pointsOnly _
  · exact s.pointsOnly_refl

/-- The LOSS requeue touches the outbox alone. -/
theorem State.requeueLosses_pointsOnly (s : State) : s.pointsOnly s.requeueLosses :=
  State.pointsOnly_foldl _ State.requeueLoss_pointsOnly _ _

/-- What follows a removal acceptance touches points and outbox alone (R8). -/
theorem State.afterRemoval_pointsOnly (s : State) (b : Bool) : s.pointsOnly (s.afterRemoval b) := by
  unfold State.afterRemoval
  split
  · exact State.pointsOnly_trans s.requeueWaiting_pointsOnly (State.requeueLosses_pointsOnly _)
  · exact s.pointsOnly_refl

/-! The station outside ACTIVE offers nothing (R45). -/

theorem State.offer_of_not_active (s : State) (f : Outbox → Outbox) (h : s.isActive = false) : s.offer f = s := by
  simp [State.offer, h]

end Sys2Proof.Machine
end

