-- ==== Sys2Proof/Laws/Acceptance.lean ====
section
/-!
SUPPORT. Acceptance (R58, R59): what each part of it writes, and what an accepted bulletin leaves as a whole.
-/

namespace Sys2Proof.Machine

/-! What operations on one block leave. -/

theorem State.presenceOnly_power {s t : State} (h : s.presenceOnly t) : t.power = s.power := by
  obtain ⟨_, _, rfl, _⟩ := h; rfl

theorem State.presenceOnly_station {s t : State} (h : s.presenceOnly t) : t.station = s.station := by
  obtain ⟨_, _, rfl, _⟩ := h; rfl

theorem State.presenceOnly_lineCount {s t : State} (h : s.presenceOnly t) : t.lineCount = s.lineCount := by
  obtain ⟨_, _, rfl, _⟩ := h; rfl

theorem State.presenceOnly_annList {s t : State} (h : s.presenceOnly t) : t.annList = s.annList := by
  obtain ⟨_, _, rfl, _⟩ := h; rfl

theorem State.presenceOnly_outbox {s t : State} (h : s.presenceOnly t) : t.outbox = s.outbox := by
  obtain ⟨_, _, rfl, _⟩ := h; rfl

theorem State.presenceOnly_line {s t : State} (h : s.presenceOnly t) : t.line = s.line := by
  obtain ⟨_, _, rfl, _⟩ := h; rfl

theorem State.presenceOnly_points {s t : State} (h : s.presenceOnly t) : t.points = s.points := by
  obtain ⟨_, _, rfl, _⟩ := h; rfl

theorem State.presenceOnly_buttons {s t : State} (h : s.presenceOnly t) : t.buttons = s.buttons := by
  obtain ⟨_, _, rfl, _⟩ := h; rfl

theorem State.presenceOnly_settings {s t : State} (h : s.presenceOnly t) : t.settings = s.settings := by
  obtain ⟨_, _, rfl, _⟩ := h; rfl

theorem State.presenceOnly_store {s t : State} (h : s.presenceOnly t) : t.store = s.store := by
  obtain ⟨_, _, rfl, _⟩ := h; rfl

theorem State.presenceOnly_session {s t : State} (h : s.presenceOnly t) : t.session = s.session := by
  obtain ⟨_, _, rfl, _⟩ := h; rfl

theorem State.presenceOnly_timebase {s t : State} (h : s.presenceOnly t) : t.timebase = s.timebase := by
  obtain ⟨_, _, rfl, _⟩ := h; rfl

theorem State.presenceOnly_pins {s t : State} (h : s.presenceOnly t) : t.pins = s.pins := by
  obtain ⟨_, _, rfl, _⟩ := h; rfl

theorem State.presenceOnly_pending {s t : State} (h : s.presenceOnly t) : t.pending = s.pending := by
  obtain ⟨_, _, rfl, _⟩ := h; rfl

theorem State.pointsOnly_power {s t : State} (h : s.pointsOnly t) : t.power = s.power := by
  obtain ⟨_, _, rfl⟩ := h; rfl

theorem State.pointsOnly_station {s t : State} (h : s.pointsOnly t) : t.station = s.station := by
  obtain ⟨_, _, rfl⟩ := h; rfl

theorem State.pointsOnly_lineCount {s t : State} (h : s.pointsOnly t) : t.lineCount = s.lineCount := by
  obtain ⟨_, _, rfl⟩ := h; rfl

theorem State.pointsOnly_annList {s t : State} (h : s.pointsOnly t) : t.annList = s.annList := by
  obtain ⟨_, _, rfl⟩ := h; rfl

theorem State.pointsOnly_line {s t : State} (h : s.pointsOnly t) : t.line = s.line := by
  obtain ⟨_, _, rfl⟩ := h; rfl

theorem State.pointsOnly_presence {s t : State} (h : s.pointsOnly t) : t.presence = s.presence := by
  obtain ⟨_, _, rfl⟩ := h; rfl

theorem State.pointsOnly_buttons {s t : State} (h : s.pointsOnly t) : t.buttons = s.buttons := by
  obtain ⟨_, _, rfl⟩ := h; rfl

theorem State.pointsOnly_settings {s t : State} (h : s.pointsOnly t) : t.settings = s.settings := by
  obtain ⟨_, _, rfl⟩ := h; rfl

theorem State.pointsOnly_store {s t : State} (h : s.pointsOnly t) : t.store = s.store := by
  obtain ⟨_, _, rfl⟩ := h; rfl

theorem State.pointsOnly_session {s t : State} (h : s.pointsOnly t) : t.session = s.session := by
  obtain ⟨_, _, rfl⟩ := h; rfl

theorem State.pointsOnly_timebase {s t : State} (h : s.pointsOnly t) : t.timebase = s.timebase := by
  obtain ⟨_, _, rfl⟩ := h; rfl

theorem State.pointsOnly_port {s t : State} (h : s.pointsOnly t) : t.port = s.port := by
  obtain ⟨_, _, rfl⟩ := h; rfl

theorem State.pointsOnly_pins {s t : State} (h : s.pointsOnly t) : t.pins = s.pins := by
  obtain ⟨_, _, rfl⟩ := h; rfl

theorem State.pointsOnly_pending {s t : State} (h : s.pointsOnly t) : t.pending = s.pending := by
  obtain ⟨_, _, rfl⟩ := h; rfl

theorem State.presenceOnly_port_counters {s t : State} (h : s.presenceOnly t) : t.port.counters = s.port.counters := by
  obtain ⟨_, _, rfl, _⟩ := h; rfl

theorem State.presenceOnly_stateChanged {s t : State} (h : s.presenceOnly t) :
    t.port.latches.stateChanged = s.port.latches.stateChanged := by
  obtain ⟨_, _, rfl, _⟩ := h; rfl

theorem State.presenceOnly_quiet {s t : State} (h : s.presenceOnly t) : t.presence.quiet = s.presence.quiet := by
  obtain ⟨_, _, rfl, h⟩ := h; exact h

/-! Operations that touch the walks and the outbox alone. -/

/-- `t` is `s` but for walks and outbox. -/
def State.walksOnly (s t : State) : Prop := ∃ w o, t = { s with annList := { s.annList with walks := w }, outbox := o }

theorem State.walkEffects_walksOnly (s : State) (how : Acceptance) (f : Frame) : s.walksOnly (s.walkEffects how f) := by
  unfold State.walkEffects
  split
  · exact ⟨_, _, rfl⟩
  · exact ⟨_, _, rfl⟩
  · split
    · exact ⟨_, s.outbox, rfl⟩
    · exact ⟨_, _, rfl⟩
  · exact ⟨s.annList.walks, s.outbox, rfl⟩

theorem State.walkOffers_walksOnly (s : State) (how : Acceptance) (f : Frame) : s.walksOnly (s.walkOffers how f) := by
  unfold State.walkOffers
  split
  · exact ⟨_, _, rfl⟩
  · exact ⟨s.annList.walks, _, rfl⟩
  · exact ⟨s.annList.walks, s.outbox, rfl⟩

theorem State.walksOnly_power {s t : State} (h : s.walksOnly t) : t.power = s.power := by
  obtain ⟨_, _, rfl⟩ := h; rfl

theorem State.walksOnly_station {s t : State} (h : s.walksOnly t) : t.station = s.station := by
  obtain ⟨_, _, rfl⟩ := h; rfl

theorem State.walksOnly_lineCount {s t : State} (h : s.walksOnly t) : t.lineCount = s.lineCount := by
  obtain ⟨_, _, rfl⟩ := h; rfl

theorem State.walksOnly_line {s t : State} (h : s.walksOnly t) : t.line = s.line := by
  obtain ⟨_, _, rfl⟩ := h; rfl

theorem State.walksOnly_presence {s t : State} (h : s.walksOnly t) : t.presence = s.presence := by
  obtain ⟨_, _, rfl⟩ := h; rfl

theorem State.walksOnly_points {s t : State} (h : s.walksOnly t) : t.points = s.points := by
  obtain ⟨_, _, rfl⟩ := h; rfl

theorem State.walksOnly_buttons {s t : State} (h : s.walksOnly t) : t.buttons = s.buttons := by
  obtain ⟨_, _, rfl⟩ := h; rfl

theorem State.walksOnly_settings {s t : State} (h : s.walksOnly t) : t.settings = s.settings := by
  obtain ⟨_, _, rfl⟩ := h; rfl

theorem State.walksOnly_store {s t : State} (h : s.walksOnly t) : t.store = s.store := by
  obtain ⟨_, _, rfl⟩ := h; rfl

theorem State.walksOnly_session {s t : State} (h : s.walksOnly t) : t.session = s.session := by
  obtain ⟨_, _, rfl⟩ := h; rfl

theorem State.walksOnly_timebase {s t : State} (h : s.walksOnly t) : t.timebase = s.timebase := by
  obtain ⟨_, _, rfl⟩ := h; rfl

theorem State.walksOnly_port {s t : State} (h : s.walksOnly t) : t.port = s.port := by
  obtain ⟨_, _, rfl⟩ := h; rfl

theorem State.walksOnly_pins {s t : State} (h : s.walksOnly t) : t.pins = s.pins := by
  obtain ⟨_, _, rfl⟩ := h; rfl

theorem State.walksOnly_pending {s t : State} (h : s.walksOnly t) : t.pending = s.pending := by
  obtain ⟨_, _, rfl⟩ := h; rfl

theorem State.walksOnly_annList_records {s t : State} (h : s.walksOnly t) : t.annList.records = s.annList.records := by
  obtain ⟨_, _, rfl⟩ := h; rfl

theorem State.walksOnly_annList_overflow {s t : State} (h : s.walksOnly t) : t.annList.overflow = s.annList.overflow := by
  obtain ⟨_, _, rfl⟩ := h; rfl

/-! `State.walkEffects` -/

@[simp] theorem State.walkEffects_power (s : State) (how : Acceptance) (f : Frame) :
    (s.walkEffects how f).power = s.power := State.walksOnly_power (s.walkEffects_walksOnly how f)

@[simp] theorem State.walkEffects_station (s : State) (how : Acceptance) (f : Frame) :
    (s.walkEffects how f).station = s.station := State.walksOnly_station (s.walkEffects_walksOnly how f)

@[simp] theorem State.walkEffects_lineCount (s : State) (how : Acceptance) (f : Frame) :
    (s.walkEffects how f).lineCount = s.lineCount := State.walksOnly_lineCount (s.walkEffects_walksOnly how f)

@[simp] theorem State.walkEffects_line (s : State) (how : Acceptance) (f : Frame) :
    (s.walkEffects how f).line = s.line := State.walksOnly_line (s.walkEffects_walksOnly how f)

@[simp] theorem State.walkEffects_presence (s : State) (how : Acceptance) (f : Frame) :
    (s.walkEffects how f).presence = s.presence := State.walksOnly_presence (s.walkEffects_walksOnly how f)

@[simp] theorem State.walkEffects_points (s : State) (how : Acceptance) (f : Frame) :
    (s.walkEffects how f).points = s.points := State.walksOnly_points (s.walkEffects_walksOnly how f)

@[simp] theorem State.walkEffects_buttons (s : State) (how : Acceptance) (f : Frame) :
    (s.walkEffects how f).buttons = s.buttons := State.walksOnly_buttons (s.walkEffects_walksOnly how f)

@[simp] theorem State.walkEffects_settings (s : State) (how : Acceptance) (f : Frame) :
    (s.walkEffects how f).settings = s.settings := State.walksOnly_settings (s.walkEffects_walksOnly how f)

@[simp] theorem State.walkEffects_store (s : State) (how : Acceptance) (f : Frame) :
    (s.walkEffects how f).store = s.store := State.walksOnly_store (s.walkEffects_walksOnly how f)

@[simp] theorem State.walkEffects_session (s : State) (how : Acceptance) (f : Frame) :
    (s.walkEffects how f).session = s.session := State.walksOnly_session (s.walkEffects_walksOnly how f)

@[simp] theorem State.walkEffects_timebase (s : State) (how : Acceptance) (f : Frame) :
    (s.walkEffects how f).timebase = s.timebase := State.walksOnly_timebase (s.walkEffects_walksOnly how f)

@[simp] theorem State.walkEffects_port (s : State) (how : Acceptance) (f : Frame) :
    (s.walkEffects how f).port = s.port := State.walksOnly_port (s.walkEffects_walksOnly how f)

@[simp] theorem State.walkEffects_pins (s : State) (how : Acceptance) (f : Frame) :
    (s.walkEffects how f).pins = s.pins := State.walksOnly_pins (s.walkEffects_walksOnly how f)

@[simp] theorem State.walkEffects_pending (s : State) (how : Acceptance) (f : Frame) :
    (s.walkEffects how f).pending = s.pending := State.walksOnly_pending (s.walkEffects_walksOnly how f)

@[simp] theorem State.walkEffects_annList_records (s : State) (how : Acceptance) (f : Frame) :
    (s.walkEffects how f).annList.records = s.annList.records := State.walksOnly_annList_records (s.walkEffects_walksOnly how f)

@[simp] theorem State.walkEffects_annList_overflow (s : State) (how : Acceptance) (f : Frame) :
    (s.walkEffects how f).annList.overflow = s.annList.overflow := State.walksOnly_annList_overflow (s.walkEffects_walksOnly how f)

/-! `State.walkOffers` -/

@[simp] theorem State.walkOffers_power (s : State) (how : Acceptance) (f : Frame) :
    (s.walkOffers how f).power = s.power := State.walksOnly_power (s.walkOffers_walksOnly how f)

@[simp] theorem State.walkOffers_station (s : State) (how : Acceptance) (f : Frame) :
    (s.walkOffers how f).station = s.station := State.walksOnly_station (s.walkOffers_walksOnly how f)

@[simp] theorem State.walkOffers_lineCount (s : State) (how : Acceptance) (f : Frame) :
    (s.walkOffers how f).lineCount = s.lineCount := State.walksOnly_lineCount (s.walkOffers_walksOnly how f)

@[simp] theorem State.walkOffers_line (s : State) (how : Acceptance) (f : Frame) :
    (s.walkOffers how f).line = s.line := State.walksOnly_line (s.walkOffers_walksOnly how f)

@[simp] theorem State.walkOffers_presence (s : State) (how : Acceptance) (f : Frame) :
    (s.walkOffers how f).presence = s.presence := State.walksOnly_presence (s.walkOffers_walksOnly how f)

@[simp] theorem State.walkOffers_points (s : State) (how : Acceptance) (f : Frame) :
    (s.walkOffers how f).points = s.points := State.walksOnly_points (s.walkOffers_walksOnly how f)

@[simp] theorem State.walkOffers_buttons (s : State) (how : Acceptance) (f : Frame) :
    (s.walkOffers how f).buttons = s.buttons := State.walksOnly_buttons (s.walkOffers_walksOnly how f)

@[simp] theorem State.walkOffers_settings (s : State) (how : Acceptance) (f : Frame) :
    (s.walkOffers how f).settings = s.settings := State.walksOnly_settings (s.walkOffers_walksOnly how f)

@[simp] theorem State.walkOffers_store (s : State) (how : Acceptance) (f : Frame) :
    (s.walkOffers how f).store = s.store := State.walksOnly_store (s.walkOffers_walksOnly how f)

@[simp] theorem State.walkOffers_session (s : State) (how : Acceptance) (f : Frame) :
    (s.walkOffers how f).session = s.session := State.walksOnly_session (s.walkOffers_walksOnly how f)

@[simp] theorem State.walkOffers_timebase (s : State) (how : Acceptance) (f : Frame) :
    (s.walkOffers how f).timebase = s.timebase := State.walksOnly_timebase (s.walkOffers_walksOnly how f)

@[simp] theorem State.walkOffers_port (s : State) (how : Acceptance) (f : Frame) :
    (s.walkOffers how f).port = s.port := State.walksOnly_port (s.walkOffers_walksOnly how f)

@[simp] theorem State.walkOffers_pins (s : State) (how : Acceptance) (f : Frame) :
    (s.walkOffers how f).pins = s.pins := State.walksOnly_pins (s.walkOffers_walksOnly how f)

@[simp] theorem State.walkOffers_pending (s : State) (how : Acceptance) (f : Frame) :
    (s.walkOffers how f).pending = s.pending := State.walksOnly_pending (s.walkOffers_walksOnly how f)

@[simp] theorem State.walkOffers_annList_records (s : State) (how : Acceptance) (f : Frame) :
    (s.walkOffers how f).annList.records = s.annList.records := State.walksOnly_annList_records (s.walkOffers_walksOnly how f)

@[simp] theorem State.walkOffers_annList_overflow (s : State) (how : Acceptance) (f : Frame) :
    (s.walkOffers how f).annList.overflow = s.annList.overflow := State.walksOnly_annList_overflow (s.walkOffers_walksOnly how f)

/-! `State.reportRaise` and `State.applyAlarm` -/

theorem State.reportRaise_pointsOnly (s : State) (how : Acceptance) (f : Frame) (x : RaiseResult) :
    ∃ p, s.reportRaise how f x = { s with points := p } := by
  unfold State.reportRaise
  split
  · exact ⟨_, rfl⟩
  · exact ⟨s.points, rfl⟩

@[simp] theorem State.reportRaise_power (s : State) (how : Acceptance) (f : Frame) (x : RaiseResult) :
    (s.reportRaise how f x).power = s.power := by
  obtain ⟨_, h⟩ := s.reportRaise_pointsOnly how f x; rw [h]

@[simp] theorem State.reportRaise_station (s : State) (how : Acceptance) (f : Frame) (x : RaiseResult) :
    (s.reportRaise how f x).station = s.station := by
  obtain ⟨_, h⟩ := s.reportRaise_pointsOnly how f x; rw [h]

@[simp] theorem State.reportRaise_lineCount (s : State) (how : Acceptance) (f : Frame) (x : RaiseResult) :
    (s.reportRaise how f x).lineCount = s.lineCount := by
  obtain ⟨_, h⟩ := s.reportRaise_pointsOnly how f x; rw [h]

@[simp] theorem State.reportRaise_annList (s : State) (how : Acceptance) (f : Frame) (x : RaiseResult) :
    (s.reportRaise how f x).annList = s.annList := by
  obtain ⟨_, h⟩ := s.reportRaise_pointsOnly how f x; rw [h]

@[simp] theorem State.reportRaise_outbox (s : State) (how : Acceptance) (f : Frame) (x : RaiseResult) :
    (s.reportRaise how f x).outbox = s.outbox := by
  obtain ⟨_, h⟩ := s.reportRaise_pointsOnly how f x; rw [h]

@[simp] theorem State.reportRaise_line (s : State) (how : Acceptance) (f : Frame) (x : RaiseResult) :
    (s.reportRaise how f x).line = s.line := by
  obtain ⟨_, h⟩ := s.reportRaise_pointsOnly how f x; rw [h]

@[simp] theorem State.reportRaise_presence (s : State) (how : Acceptance) (f : Frame) (x : RaiseResult) :
    (s.reportRaise how f x).presence = s.presence := by
  obtain ⟨_, h⟩ := s.reportRaise_pointsOnly how f x; rw [h]

@[simp] theorem State.reportRaise_buttons (s : State) (how : Acceptance) (f : Frame) (x : RaiseResult) :
    (s.reportRaise how f x).buttons = s.buttons := by
  obtain ⟨_, h⟩ := s.reportRaise_pointsOnly how f x; rw [h]

@[simp] theorem State.reportRaise_settings (s : State) (how : Acceptance) (f : Frame) (x : RaiseResult) :
    (s.reportRaise how f x).settings = s.settings := by
  obtain ⟨_, h⟩ := s.reportRaise_pointsOnly how f x; rw [h]

@[simp] theorem State.reportRaise_store (s : State) (how : Acceptance) (f : Frame) (x : RaiseResult) :
    (s.reportRaise how f x).store = s.store := by
  obtain ⟨_, h⟩ := s.reportRaise_pointsOnly how f x; rw [h]

@[simp] theorem State.reportRaise_session (s : State) (how : Acceptance) (f : Frame) (x : RaiseResult) :
    (s.reportRaise how f x).session = s.session := by
  obtain ⟨_, h⟩ := s.reportRaise_pointsOnly how f x; rw [h]

@[simp] theorem State.reportRaise_timebase (s : State) (how : Acceptance) (f : Frame) (x : RaiseResult) :
    (s.reportRaise how f x).timebase = s.timebase := by
  obtain ⟨_, h⟩ := s.reportRaise_pointsOnly how f x; rw [h]

@[simp] theorem State.reportRaise_port (s : State) (how : Acceptance) (f : Frame) (x : RaiseResult) :
    (s.reportRaise how f x).port = s.port := by
  obtain ⟨_, h⟩ := s.reportRaise_pointsOnly how f x; rw [h]

@[simp] theorem State.reportRaise_pins (s : State) (how : Acceptance) (f : Frame) (x : RaiseResult) :
    (s.reportRaise how f x).pins = s.pins := by
  obtain ⟨_, h⟩ := s.reportRaise_pointsOnly how f x; rw [h]

@[simp] theorem State.reportRaise_pending (s : State) (how : Acceptance) (f : Frame) (x : RaiseResult) :
    (s.reportRaise how f x).pending = s.pending := by
  obtain ⟨_, h⟩ := s.reportRaise_pointsOnly how f x; rw [h]

@[simp] theorem State.applyAlarm_power (s : State) (x : RaiseResult) (rs : List Record) :
    (s.applyAlarm x rs).power = s.power := rfl

@[simp] theorem State.applyAlarm_station (s : State) (x : RaiseResult) (rs : List Record) :
    (s.applyAlarm x rs).station = s.station := rfl

@[simp] theorem State.applyAlarm_lineCount (s : State) (x : RaiseResult) (rs : List Record) :
    (s.applyAlarm x rs).lineCount = s.lineCount := rfl

@[simp] theorem State.applyAlarm_outbox (s : State) (x : RaiseResult) (rs : List Record) :
    (s.applyAlarm x rs).outbox = s.outbox := rfl

@[simp] theorem State.applyAlarm_line (s : State) (x : RaiseResult) (rs : List Record) :
    (s.applyAlarm x rs).line = s.line := rfl

@[simp] theorem State.applyAlarm_presence (s : State) (x : RaiseResult) (rs : List Record) :
    (s.applyAlarm x rs).presence = s.presence := rfl

@[simp] theorem State.applyAlarm_points (s : State) (x : RaiseResult) (rs : List Record) :
    (s.applyAlarm x rs).points = s.points := rfl

@[simp] theorem State.applyAlarm_buttons (s : State) (x : RaiseResult) (rs : List Record) :
    (s.applyAlarm x rs).buttons = s.buttons := rfl

@[simp] theorem State.applyAlarm_settings (s : State) (x : RaiseResult) (rs : List Record) :
    (s.applyAlarm x rs).settings = s.settings := rfl

@[simp] theorem State.applyAlarm_store (s : State) (x : RaiseResult) (rs : List Record) :
    (s.applyAlarm x rs).store = s.store := rfl

@[simp] theorem State.applyAlarm_session (s : State) (x : RaiseResult) (rs : List Record) :
    (s.applyAlarm x rs).session = s.session := rfl

@[simp] theorem State.applyAlarm_timebase (s : State) (x : RaiseResult) (rs : List Record) :
    (s.applyAlarm x rs).timebase = s.timebase := rfl

@[simp] theorem State.applyAlarm_pins (s : State) (x : RaiseResult) (rs : List Record) :
    (s.applyAlarm x rs).pins = s.pins := rfl

@[simp] theorem State.applyAlarm_pending (s : State) (x : RaiseResult) (rs : List Record) :
    (s.applyAlarm x rs).pending = s.pending := rfl

@[simp] theorem State.applyAlarm_records (s : State) (x : RaiseResult) (rs : List Record) :
    (s.applyAlarm x rs).annList.records = rs := rfl

@[simp] theorem State.applyAlarm_overflow (s : State) (x : RaiseResult) (rs : List Record) :
    (s.applyAlarm x rs).annList.overflow = overflowAfter x (removes s.annList.records rs) s.annList.overflow := rfl

@[simp] theorem State.applyAlarm_walks (s : State) (x : RaiseResult) (rs : List Record) :
    (s.applyAlarm x rs).annList.walks
      = if removes s.annList.records rs then repairWalks s.annList.records rs s.annList.walks else s.annList.walks := rfl

@[simp] theorem State.applyAlarm_port_counters (s : State) (x : RaiseResult) (rs : List Record) :
    (s.applyAlarm x rs).port.counters
      = { s.port.counters with
          overflowRefusals := countIf (decide (x = .refused)) s.port.counters.overflowRefusals } := rfl

@[simp] theorem State.applyAlarm_stateChanged (s : State) (x : RaiseResult) (rs : List Record) :
    (s.applyAlarm x rs).port.latches.stateChanged = s.port.latches.stateChanged := rfl

/-! The presence changes depend on the presence table and the own number alone. -/

theorem State.setPeer_presence_congr {s t : State} (h : t.presence = s.presence) (h' : t.settings = s.settings)
    (n : StationNo) (x : PeerState) : (t.setPeer n x).presence = (s.setPeer n x).presence := by
  have hd : decide (n ≠ t.own ∧ t.peerState n ≠ x) = decide (n ≠ s.own ∧ s.peerState n ≠ x) := by
    rw [decide_eq_decide, own_congr h', State.peerState, State.peerState, h]
  unfold State.setPeer
  simp only [hd, h]

theorem State.noteSender_presence_congr {s t : State} (h : t.presence = s.presence) (h' : t.settings = s.settings)
    (n : StationNo) : (t.noteSender n).presence = (s.noteSender n).presence := by
  have hp : t.peerState n = s.peerState n := by simp only [State.peerState, h]
  unfold State.noteSender
  rw [hp]
  split <;> first | exact State.setPeer_presence_congr h h' _ _ | exact h

theorem State.markLost_presence_congr {s t : State} (h : t.presence = s.presence) (h' : t.settings = s.settings)
    (b : PeerState) (n : StationNo) : (t.markLost b n).presence = (s.markLost b n).presence := by
  unfold State.markLost
  split <;> first | exact State.setPeer_presence_congr h h' _ _ | exact h

theorem State.noteTarget_presence_congr {s t : State} (h : t.presence = s.presence) (h' : t.settings = s.settings)
    (r : Roll) : (t.noteTarget r).presence = (s.noteTarget r).presence := by
  have hp : t.peerState r.target = s.peerState r.target := by simp only [State.peerState, h]
  unfold State.noteTarget
  rw [hp]
  split
  · simp only [State.clearSilence, State.setPeer_presence_congr h h']
  · simp only [State.clearSilence, h]

theorem State.noteJoin_presence_congr {s t : State} (h : t.presence = s.presence) (h' : t.settings = s.settings)
    (how : Acceptance) (n : StationNo) : (t.noteJoin how n).presence = (s.noteJoin how n).presence := by
  have hp : t.peerState n = s.peerState n := by simp only [State.peerState, h]
  unfold State.noteJoin
  rw [hp]
  split <;> (try split) <;> first | exact State.setPeer_presence_congr h h' _ _ | exact h

theorem State.presenceEffects_presence_congr {s t : State} (h : t.presence = s.presence) (h' : t.settings = s.settings)
    (how : Acceptance) (f : Frame) : (t.presenceEffects how f).presence = (s.presenceEffects how f).presence := by
  have hs : ∀ n : StationNo, (t.noteSender n).settings = (s.noteSender n).settings := fun n => by
    rw [State.presenceOnly_settings (t.noteSender_presenceOnly n),
      State.presenceOnly_settings (s.noteSender_presenceOnly n), h']
  unfold State.presenceEffects
  split
  · exact State.noteJoin_presence_congr h h' _ _
  · rename_i n _
    have hp : t.peerState n = s.peerState n := by simp only [State.peerState, h]
    rw [hp]
    exact State.markLost_presence_congr (State.noteSender_presence_congr h h' _) (hs _) _ _
  · exact State.noteTarget_presence_congr (State.noteSender_presence_congr h h' _) (hs _) _
  all_goals exact State.noteSender_presence_congr h h' _

/-! Acceptance as a whole, where it does not name the station itself lost (R58, R59). -/

/-- The state that an accepted bulletin leaves before the offers of a removal acceptance. -/
def State.acceptedBeforeOffers (s : State) (how : Acceptance) (f : Frame) : State :=
  let outcome := alarmSequence s.options s.inUse.lossGroup (decide (how = .filling)) f s.annList.records
  (((((s.countAccepted.applyAlarm outcome.1 outcome.2).reportRaise how f outcome.1).presenceEffects how f).walkEffects
        how f).walkOffers how f)

theorem State.ownLoss_of_ne {s : State} {how : Acceptance} {f : Frame} (h : f.body ≠ .loss s.own) :
    s.ownLoss how f = s := by
  unfold State.ownLoss
  split
  · rfl
  · rename_i n hb
    rw [if_neg]
    rintro rfl
    exact h hb
  · rfl

theorem State.accept_of_ne {s : State} {how : Acceptance} {f : Frame} (h : f.body ≠ .loss s.own) :
    s.accept how f
      = (s.acceptedBeforeOffers how f).afterRemoval
          (removes s.annList.records
            (alarmSequence s.options s.inUse.lossGroup (decide (how = .filling)) f s.annList.records).2) := by
  unfold State.accept State.acceptedBeforeOffers
  dsimp only
  rw [State.ownLoss_of_ne]
  rw [own_congr (s := s)]
  · exact h
  · simp [State.presenceOnly_settings (State.presenceEffects_presenceOnly _ how f)]

section Before

variable (s : State) (how : Acceptance) (f : Frame)


theorem State.acceptedBeforeOffers_station :
    (s.acceptedBeforeOffers how f).station = s.station := by
  simp [State.acceptedBeforeOffers, State.presenceOnly_station (State.presenceEffects_presenceOnly _ how f)]

theorem State.acceptedBeforeOffers_lineCount :
    (s.acceptedBeforeOffers how f).lineCount = s.lineCount + 1 := by
  simp [State.acceptedBeforeOffers, State.presenceOnly_lineCount (State.presenceEffects_presenceOnly _ how f)]

theorem State.acceptedBeforeOffers_line :
    (s.acceptedBeforeOffers how f).line = s.line := by
  simp [State.acceptedBeforeOffers, State.presenceOnly_line (State.presenceEffects_presenceOnly _ how f)]

theorem State.acceptedBeforeOffers_settings :
    (s.acceptedBeforeOffers how f).settings = s.settings := by
  simp [State.acceptedBeforeOffers, State.presenceOnly_settings (State.presenceEffects_presenceOnly _ how f)]

theorem State.acceptedBeforeOffers_annList_records :
    (s.acceptedBeforeOffers how f).annList.records = (alarmSequence s.options s.inUse.lossGroup (decide (how = .filling)) f s.annList.records).2 := by
  simp [State.acceptedBeforeOffers, State.presenceOnly_annList (State.presenceEffects_presenceOnly _ how f)]

theorem State.acceptedBeforeOffers_annList_overflow :
    (s.acceptedBeforeOffers how f).annList.overflow = overflowAfter (alarmSequence s.options s.inUse.lossGroup (decide (how = .filling)) f s.annList.records).1
        (removes s.annList.records (alarmSequence s.options s.inUse.lossGroup (decide (how = .filling)) f s.annList.records).2) s.annList.overflow := by
  simp [State.acceptedBeforeOffers, State.presenceOnly_annList (State.presenceEffects_presenceOnly _ how f)]

theorem State.acceptedBeforeOffers_port_counters :
    (s.acceptedBeforeOffers how f).port.counters = { s.port.counters with
        overflowRefusals :=
          countIf (decide ((alarmSequence s.options s.inUse.lossGroup (decide (how = .filling)) f s.annList.records).1 = .refused))
            s.port.counters.overflowRefusals } := by
  simp [State.acceptedBeforeOffers, State.presenceOnly_port_counters (State.presenceEffects_presenceOnly _ how f)]

theorem State.acceptedBeforeOffers_port_latches_stateChanged :
    (s.acceptedBeforeOffers how f).port.latches.stateChanged = s.port.latches.stateChanged := by
  simp [State.acceptedBeforeOffers, State.presenceOnly_stateChanged (State.presenceEffects_presenceOnly _ how f)]

/-- The presence table after acceptance is that of the presence changes alone (R124). -/
theorem State.acceptedBeforeOffers_presence :
    (s.acceptedBeforeOffers how f).presence = (s.presenceEffects how f).presence := by
  simp only [State.acceptedBeforeOffers, State.walkOffers_presence, State.walkEffects_presence]
  exact State.presenceEffects_presence_congr (by simp) (by simp) _ _

/-- Only the sender of a RAISE has a point that acceptance reports to (R24). -/
theorem State.acceptedBeforeOffers_points :
    (s.acceptedBeforeOffers how f).points
      = (s.reportRaise how f (alarmSequence s.options s.inUse.lossGroup (decide (how = .filling)) f s.annList.records).1).points := by
  simp only [State.acceptedBeforeOffers, State.walkOffers_points, State.walkEffects_points,
    State.presenceOnly_points (State.presenceEffects_presenceOnly _ how f)]
  unfold State.reportRaise
  split <;> rfl

end Before

end Sys2Proof.Machine
end

