-- ==== Sys2Proof/Laws/AnnList.lean ====
section
/-!
SUPPORT. The list as a structure: looking up a point, what each bulletin's map leaves, and where a record stands.
-/

namespace Sys2Proof.Machine

theorem holds_iff (rs : List Record) (p : PointId) : holds rs p = true ↔ ∃ r ∈ rs, r.id = p := by simp [holds]

theorem findRecord_eq_none (rs : List Record) (p : PointId) : findRecord rs p = none ↔ holds rs p = false := by
  simp [findRecord, holds]

theorem findRecord_mem {rs : List Record} {p : PointId} {r : Record} (h : findRecord rs p = some r) :
    r ∈ rs ∧ r.id = p :=
  ⟨List.mem_of_find?_eq_some h, by simpa using List.find?_some h⟩

/-- Where no two records are of one point, a lookup finds the record of the point (R4). -/
theorem findRecord_of_mem {rs : List Record} {r : Record} (hn : (rs.map Record.id).Nodup) (hr : r ∈ rs) :
    findRecord rs r.id = some r := by
  induction rs with
  | nil => simp at hr
  | cons x xs ih =>
    rw [List.map_cons, List.nodup_cons] at hn
    rcases List.mem_cons.1 hr with rfl | hr
    · simp [findRecord]
    · have hx : x.id ≠ r.id := fun h => hn.1 (h ▸ List.mem_map_of_mem hr)
      simp only [findRecord, List.find?_cons, beq_eq_false_iff_ne.2 hx]
      exact ih hn.2 hr

theorem not_occupied (rs : List Record) (g : Group) : (!occupied rs g) = rs.all fun r => r.group != g := by
  simp [occupied, List.any_eq_not_all_not, bne]

theorem reAlarm_eq (r : Record) :
    reAlarm r
      = if r.state = .lapsed ∨ r.state = .settled then { r with state := .alert, silenced := false } else r := by
  rcases r with ⟨_, s, _⟩
  cases s <;> simp [reAlarm]

@[simp] theorem reAlarm_id (r : Record) : (reAlarm r).id = r.id := by unfold reAlarm; split <;> rfl

@[simp] theorem reAlarm_group (r : Record) : (reAlarm r).group = r.group := by unfold reAlarm; split <;> rfl

@[simp] theorem reAlarm_firstOut (r : Record) : (reAlarm r).firstOut = r.firstOut := by unfold reAlarm; split <;> rfl

/-- A change of the record of one point leaves every other record in its place (R3). -/
theorem map_at_point {older newer : List Record} {r : Record} {p : PointId} (f : Record → Record) (h : r.id = p)
    (hn : ((older ++ r :: newer).map Record.id).Nodup) :
    ((older ++ r :: newer).map fun x => if x.id = p then f x else x) = older ++ f r :: newer := by
  simp only [List.map_append, List.map_cons, List.nodup_append, List.nodup_cons] at hn
  have h1 : older.map (fun x => if x.id = p then f x else x) = older := by
    rw [List.map_congr_left (g := id), List.map_id]
    intro x hx
    rw [if_neg, id]
    intro h'
    exact hn.2.2 _ (List.mem_map_of_mem hx) _ (List.mem_cons_self ..) (h'.trans h.symm)
  have h2 : newer.map (fun x => if x.id = p then f x else x) = newer := by
    rw [List.map_congr_left (g := id), List.map_id]
    intro x hx
    rw [if_neg, id]
    intro h'
    exact hn.2.1.1 (by rw [h, ← h']; exact List.mem_map_of_mem hx)
  rw [List.map_append, List.map_cons, h1, h2, if_pos h]

/-! Bulletins that only change or remove records. -/

/-- A map that keeps, in each record it keeps, point, group and first-out mark (R19). -/
def KeepsPlace (g : Record → Option Record) : Prop :=
  ∀ r r', g r = some r' → r'.id = r.id ∧ r'.group = r.group ∧ r'.firstOut = r.firstOut

theorem returnRecord_keepsPlace (o : GroupOptions) : KeepsPlace (returnRecord o) := by
  intro r r' h
  unfold returnRecord at h
  split at h <;> (try split at h) <;> (try simp at h) <;> subst h <;> exact ⟨rfl, rfl, rfl⟩

theorem ackRecord_keepsPlace (o : GroupOptions) : KeepsPlace (ackRecord o) := by
  intro r r' h
  unfold ackRecord at h
  split at h <;> (try split at h) <;> (try simp at h) <;> subst h <;> exact ⟨rfl, rfl, rfl⟩

theorem clearRecord_keepsPlace : KeepsPlace clearRecord := by
  intro r r' h
  unfold clearRecord at h
  split at h <;> (try simp at h) <;> subst h <;> exact ⟨rfl, rfl, rfl⟩

theorem silenceRecord_keepsPlace : KeepsPlace fun r => some (silenceRecord r) := by
  intro r r' h
  obtain rfl : silenceRecord r = r' := by simpa using h
  unfold silenceRecord
  split <;> exact ⟨rfl, rfl, rfl⟩

/-- Such a map adds no point and keeps the order of those left. -/
theorem filterMap_ids_sublist {g : Record → Option Record} (h : KeepsPlace g) (rs : List Record) :
    ((rs.filterMap g).map Record.id).Sublist (rs.map Record.id) := by
  induction rs with
  | nil => exact List.Sublist.refl _
  | cons x xs ih =>
    cases hx : g x with
    | none => rw [List.filterMap_cons_none hx]; exact ih.cons _
    | some y =>
      rw [List.filterMap_cons_some hx, List.map_cons, List.map_cons, (h x y hx).1]
      exact ih.cons_cons _

/-- What an accepted bulletin makes of a list, in one of three ways: each record kept in its place or removed, one record
added at the tail, or no change (R19, R5). -/
theorem alarmSequence_cases (options : Group → GroupOptions) (lossGroup : Group) (filling : Bool) (f : Frame)
    (rs : List Record) :
    (∃ g, KeepsPlace g ∧ (alarmSequence options lossGroup filling f rs).2 = rs.filterMap g)
      ∨ (∃ p g, holds rs p = false ∧ filling = false ∧ rs.length < 64
        ∧ alarmSequence options lossGroup filling f rs = (.published, rs ++ [newRecord options p g rs])) := by
  have hid : ∃ g, KeepsPlace g ∧ rs = rs.filterMap g :=
    ⟨some, fun r r' h => by obtain rfl : r = r' := by simpa using h
                            exact ⟨rfl, rfl, rfl⟩, by simp⟩
  have raise : ∀ p g,
      (∃ k, KeepsPlace k ∧ (raiseRecords options filling p g rs).2 = rs.filterMap k)
        ∨ ∃ p' g', holds rs p' = false ∧ filling = false ∧ rs.length < 64
          ∧ raiseRecords options filling p g rs = (.published, rs ++ [newRecord options p' g' rs]) := by
    intro p g
    unfold raiseRecords
    by_cases h : holds rs p = true
    · rw [if_pos h]
      refine Or.inl ⟨fun r => some (if r.id = p then reAlarm r else r), ?_, by simp [List.filterMap_eq_map']⟩
      intro r r' h'
      obtain rfl := Option.some.inj h'
      split
      · exact ⟨reAlarm_id r, reAlarm_group r, reAlarm_firstOut r⟩
      · exact ⟨rfl, rfl, rfl⟩
    · rw [if_neg h]
      cases filling with
      | true => exact Or.inl hid
      | false =>
        by_cases hl : rs.length < Config.listCapacity
        · rw [if_neg (by simp), if_pos hl]
          exact Or.inr ⟨p, g, by simpa using h, rfl, hl, rfl⟩
        · rw [if_neg (by simp), if_neg hl]
          exact Or.inl hid
  have ret : ∀ p, ∃ k, KeepsPlace k ∧ returnRecords options p rs = rs.filterMap k := by
    intro p
    refine ⟨_, ?_, rfl⟩
    intro r r' h
    dsimp only at h
    split at h
    · exact returnRecord_keepsPlace _ r r' h
    · obtain rfl := Option.some.inj h; exact ⟨rfl, rfl, rfl⟩
  have act : ∀ m k, KeepsPlace k → ∃ k', KeepsPlace k' ∧ actOnGroups m k rs = rs.filterMap k' := by
    intro m k hk
    refine ⟨_, ?_, rfl⟩
    intro r r' h
    dsimp only at h
    split at h
    · exact hk r r' h
    · obtain rfl := Option.some.inj h; exact ⟨rfl, rfl, rfl⟩
  unfold alarmSequence
  split
  · exact raise _ _
  · exact raise _ _
  · exact Or.inl (ret _)
  · exact Or.inl (act _ _ fun r => ackRecord_keepsPlace (options r.group) r)
  · exact Or.inl (act _ _ silenceRecord_keepsPlace)
  · exact Or.inl (act _ _ clearRecord_keepsPlace)
  · exact Or.inl hid
  · exact Or.inl hid
  · exact Or.inl (ret _)

/-! Inserting a record. -/

theorem insertAfter_at {p : PointId} {x r : Record} {older newer : List Record} (h : r.id = p)
    (ho : ∀ y ∈ older, y.id ≠ p) : insertAfter p x (older ++ r :: newer) = older ++ r :: x :: newer := by
  induction older with
  | nil => simp [insertAfter, h]
  | cons y ys ih =>
    simp only [List.cons_append, insertAfter, if_neg (ho y (List.mem_cons_self ..))]
    rw [ih fun z hz => ho z (List.mem_cons_of_mem _ hz)]

end Sys2Proof.Machine
end

