-- ==== Sys2Proof/Laws/Frames.lean ====
section
/-!
SUPPORT. What no shared operation of the line, the list, the outbox and the presence unit touches: power, settings,
store, session, timebase, buttons, pins, the waiting commands and the service port but for latches and counters.
-/

namespace Sys2Proof.Machine

theorem State.sameOutside_refl (s : State) : s.sameOutside s := by simp [State.sameOutside]

theorem State.sameOutside_trans {s t u : State} (h : s.sameOutside t) (h' : t.sameOutside u) : s.sameOutside u := by
  obtain ⟨a1, a2, a3, a4, a5, a6, a7, a8, a9, a10, a11, a12⟩ := h
  obtain ⟨b1, b2, b3, b4, b5, b6, b7, b8, b9, b10, b11, b12⟩ := h'
  exact ⟨b1.trans a1, b2.trans a2, b3.trans a3, b4.trans a4, b5.trans a5, b6.trans a6, b7.trans a7, b8.trans a8,
    b9.trans a9, b10.trans a10, b11.trans a11, b12.trans a12⟩

theorem State.sameOutside_foldl {α : Type} (f : State → α → State) (h : ∀ (s : State) x, s.sameOutside (f s x)) (l : List α)
    (s : State) : s.sameOutside (l.foldl f s) := by
  induction l generalizing s with
  | nil => exact s.sameOutside_refl
  | cons x xs ih => exact State.sameOutside_trans (h s x) (ih _)

theorem State.putList_sameOutside (s : State) (rs : List Record) (o : Bool) : s.sameOutside (s.putList rs o) := by simp [State.sameOutside]

theorem State.putWalks_sameOutside (s : State) (ws : List Walk) : s.sameOutside (s.putWalks ws) := by simp [State.sameOutside]

theorem State.mapOutbox_sameOutside (s : State) (f : Outbox → Outbox) : s.sameOutside (s.mapOutbox f) := by simp [State.sameOutside]

theorem State.offer_sameOutside (s : State) (f : Outbox → Outbox) : s.sameOutside (s.offer f) := by simp [State.sameOutside]

theorem State.offerJoin_sameOutside (s : State) (r : Reason) : s.sameOutside (s.offerJoin r) := by simp [State.sameOutside]

theorem State.enter_sameOutside (s : State) (x : Station) : s.sameOutside (s.enter x) := by simp [State.sameOutside]

theorem State.putStation_sameOutside (s : State) (x : Station) : s.sameOutside (s.putStation x) := by simp [State.sameOutside]

theorem State.countAccepted_sameOutside (s : State) : s.sameOutside (s.countAccepted) := by simp [State.sameOutside]

theorem State.mapLine_sameOutside (s : State) (f : Line → Line) : s.sameOutside (s.mapLine f) := by simp [State.sameOutside]

theorem State.mapCounters_sameOutside (s : State) (f : Counters → Counters) : s.sameOutside (s.mapCounters f) := by simp [State.sameOutside]

theorem State.setPeer_sameOutside (s : State) (n : StationNo) (x : PeerState) : s.sameOutside (s.setPeer n x) := by simp [State.sameOutside]

theorem State.clearSilence_sameOutside (s : State) (n : StationNo) : s.sameOutside (s.clearSilence n) := by simp [State.sameOutside]

theorem State.putQuiet_sameOutside (s : State) (q : Nat) : s.sameOutside (s.putQuiet q) := by simp [State.sameOutside]

theorem State.mapPoint_sameOutside (s : State) (p : LocalPoint) (f : Point → Point) : s.sameOutside (s.mapPoint p f) := by simp [State.sameOutside]

theorem State.enterJoining_sameOutside (s : State) (r : Reason) : s.sameOutside (s.enterJoining r) := by simp [State.sameOutside]

theorem State.enterMuted_sameOutside (s : State) : s.sameOutside (s.enterMuted) := by simp [State.sameOutside]

theorem State.enterDiscord_sameOutside (s : State) : s.sameOutside (s.enterDiscord) := by simp [State.sameOutside]

theorem State.enterActive_sameOutside (s : State) : s.sameOutside (s.enterActive) := by simp [State.sameOutside]

theorem State.retryJoin_sameOutside (s : State) : s.sameOutside (s.retryJoin) := by simp [State.sameOutside]

theorem State.discardWalk_sameOutside (s : State) (n : StationNo) : s.sameOutside (s.discardWalk n) := by simp [State.sameOutside]

theorem State.creditAccepted_sameOutside (s : State) : s.sameOutside (s.creditAccepted) := by simp [State.sameOutside]

theorem State.becomeAdmitted_sameOutside (s : State) : s.sameOutside (s.becomeAdmitted) := by simp [State.sameOutside]

/-! The operations made of them. -/

theorem State.noteSender_sameOutside (s : State) (n : StationNo) : s.sameOutside (s.noteSender n) := by
  unfold State.noteSender; split <;> simp [State.sameOutside]

theorem State.markLost_sameOutside (s : State) (b : PeerState) (n : StationNo) : s.sameOutside (s.markLost b n) := by
  unfold State.markLost; split <;> simp [State.sameOutside]

theorem State.noteTarget_sameOutside (s : State) (r : Roll) : s.sameOutside (s.noteTarget r) := by
  unfold State.noteTarget; split <;> simp [State.sameOutside]

theorem State.noteJoin_sameOutside (s : State) (how : Acceptance) (n : StationNo) : s.sameOutside (s.noteJoin how n) := by
  unfold State.noteJoin; split <;> (try split) <;> simp [State.sameOutside]

theorem State.presenceEffects_sameOutside (s : State) (how : Acceptance) (f : Frame) :
    s.sameOutside (s.presenceEffects how f) := by
  unfold State.presenceEffects
  split
  · exact s.noteJoin_sameOutside _ _
  · exact State.sameOutside_trans (s.noteSender_sameOutside _) (State.markLost_sameOutside _ _ _)
  · exact State.sameOutside_trans (s.noteSender_sameOutside _) (State.noteTarget_sameOutside _ _)
  all_goals exact s.noteSender_sameOutside _

theorem State.noteHeard_sameOutside (s : State) (f : Frame) : s.sameOutside (s.noteHeard f) := by
  unfold State.noteHeard; split <;> (try split) <;> (try split) <;> simp [State.sameOutside]

theorem State.hear_sameOutside (s : State) (f : Frame) : s.sameOutside (s.hear f) := by
  unfold State.hear
  split
  · exact s.sameOutside_refl
  · exact State.sameOutside_trans
      (State.sameOutside_trans (s.clearSilence_sameOutside _) (State.mapOutbox_sameOutside _ _))
      (State.noteHeard_sameOutside _ _)

theorem State.applyAlarm_sameOutside (s : State) (x : RaiseResult) (rs : List Record) :
    s.sameOutside (s.applyAlarm x rs) := by
  simp [State.applyAlarm, State.sameOutside]

theorem State.reportRaise_sameOutside (s : State) (how : Acceptance) (f : Frame) (x : RaiseResult) :
    s.sameOutside (s.reportRaise how f x) := by
  unfold State.reportRaise; split <;> simp [State.sameOutside]

theorem State.walkEffects_sameOutside (s : State) (how : Acceptance) (f : Frame) :
    s.sameOutside (s.walkEffects how f) := by
  unfold State.walkEffects; split <;> (try split) <;> simp [State.sameOutside]

theorem State.walkOffers_sameOutside (s : State) (how : Acceptance) (f : Frame) :
    s.sameOutside (s.walkOffers how f) := by
  unfold State.walkOffers; split <;> simp [State.sameOutside]

theorem State.ownLoss_sameOutside (s : State) (how : Acceptance) (f : Frame) : s.sameOutside (s.ownLoss how f) := by
  unfold State.ownLoss; split <;> (try split) <;> simp [State.sameOutside]

theorem State.republish_sameOutside (s : State) (p : LocalPoint) (q : List PointKind) :
    s.sameOutside (s.republish p q) := State.offer_sameOutside _ _

theorem State.requeuePoint_sameOutside (s : State) (p : LocalPoint) : s.sameOutside (s.requeuePoint p) := by
  unfold State.requeuePoint
  dsimp only
  split
  · exact State.sameOutside_trans (s.mapPoint_sameOutside _ _) (State.republish_sameOutside _ _ _)
  · exact s.sameOutside_refl

theorem State.requeueWaiting_sameOutside (s : State) : s.sameOutside s.requeueWaiting := by
  unfold State.requeueWaiting
  split
  · exact State.sameOutside_foldl _ State.requeuePoint_sameOutside _ _
  · exact s.sameOutside_refl

theorem State.reconcilePoint_sameOutside (s : State) (p : LocalPoint) : s.sameOutside (s.reconcilePoint p) :=
  State.sameOutside_trans (s.mapPoint_sameOutside _ _) (State.republish_sameOutside _ _ _)

theorem State.reconcile_sameOutside (s : State) : s.sameOutside s.reconcile :=
  State.sameOutside_foldl _ State.reconcilePoint_sameOutside _ _

theorem State.requeueLoss_sameOutside (s : State) (n : StationNo) : s.sameOutside (s.requeueLoss n) := by
  unfold State.requeueLoss; split <;> simp [State.sameOutside]

theorem State.requeueLosses_sameOutside (s : State) : s.sameOutside s.requeueLosses :=
  State.sameOutside_foldl _ State.requeueLoss_sameOutside _ _

theorem State.markFromList_sameOutside (s : State) (n : StationNo) : s.sameOutside (s.markFromList n) := by
  unfold State.markFromList; split <;> (try split) <;> simp [State.sameOutside]

theorem State.markFromLossRecords_sameOutside (s : State) : s.sameOutside s.markFromLossRecords :=
  State.sameOutside_foldl _ State.markFromList_sameOutside _ _

theorem State.afterRemoval_sameOutside (s : State) (b : Bool) : s.sameOutside (s.afterRemoval b) := by
  unfold State.afterRemoval
  split
  · exact State.sameOutside_trans s.requeueWaiting_sameOutside (State.requeueLosses_sameOutside _)
  · exact s.sameOutside_refl

theorem State.accept_sameOutside (s : State) (how : Acceptance) (f : Frame) : s.sameOutside (s.accept how f) := by
  unfold State.accept
  refine State.sameOutside_trans ?_ (State.afterRemoval_sameOutside _ _)
  refine State.sameOutside_trans ?_ (State.walkOffers_sameOutside _ _ _)
  refine State.sameOutside_trans ?_ (State.ownLoss_sameOutside _ _ _)
  refine State.sameOutside_trans ?_ (State.walkEffects_sameOutside _ _ _)
  refine State.sameOutside_trans ?_ (State.presenceEffects_sameOutside _ _ _)
  refine State.sameOutside_trans ?_ (State.reportRaise_sameOutside _ _ _ _)
  exact State.sameOutside_trans s.countAccepted_sameOutside (State.applyAlarm_sameOutside _ _ _)

theorem State.completeTransfer_sameOutside (s : State) (b : Bool) : s.sameOutside (s.completeTransfer b) := by
  unfold State.completeTransfer
  refine State.sameOutside_trans ?_ (State.reconcile_sameOutside _)
  refine State.sameOutside_trans ?_ (State.markFromLossRecords_sameOutside _)
  exact State.sameOutside_trans (s.putList_sameOutside _ _) (State.enterActive_sameOutside _)

theorem State.takeRoll_sameOutside (s : State) (r : Roll) : s.sameOutside (s.takeRoll r) := by
  unfold State.takeRoll
  split
  · exact s.retryJoin_sameOutside
  · dsimp only
    split
    · exact State.sameOutside_trans
        (State.sameOutside_trans (s.putList_sameOutside _ _) (State.putStation_sameOutside _ _))
        (State.completeTransfer_sameOutside _ _)
    · exact State.sameOutside_trans (s.putList_sameOutside _ _) (State.putStation_sameOutside _ _)

theorem State.takeFirstRoll_sameOutside (s : State) (f : Frame) (r : Roll) : s.sameOutside (s.takeFirstRoll f r) := by
  unfold State.takeFirstRoll
  refine State.sameOutside_trans ?_ (State.takeRoll_sameOutside _ _)
  refine State.sameOutside_trans ?_ (State.enter_sameOutside _ _)
  refine State.sameOutside_trans ?_ (State.presenceEffects_sameOutside _ _ _)
  simp [State.sameOutside]

theorem State.acceptFilling_sameOutside (s : State) (f : Frame) : s.sameOutside (s.acceptFilling f) := by
  unfold State.acceptFilling
  split
  · split
    · refine State.sameOutside_trans ?_ (State.takeRoll_sameOutside _ _)
      exact State.sameOutside_trans s.countAccepted_sameOutside (State.presenceEffects_sameOutside _ _ _)
    · exact s.accept_sameOutside _ _
  · exact s.accept_sameOutside _ _

theorem State.found_sameOutside (s : State) : s.sameOutside s.found := by
  unfold State.found
  refine State.sameOutside_trans ?_ (State.reconcile_sameOutside _)
  refine State.sameOutside_trans ?_ (State.enterActive_sameOutside _)
  simp [State.sameOutside]

theorem State.void_sameOutside (s : State) : s.sameOutside s.void := by
  unfold State.void
  dsimp only
  split
  · simp [State.sameOutside]
  · refine State.sameOutside_trans ?_ (State.enterMuted_sameOutside _)
    simp [State.sameOutside]

theorem State.stepped_sameOutside (s : State) (f : Frame) : s.sameOutside (s.stepped f) := by
  unfold State.stepped; split <;> simp [State.sameOutside]

theorem State.ownAccepted_sameOutside (s : State) (f : Frame) (b : Bool) : s.sameOutside (s.ownAccepted f b) := by
  unfold State.ownAccepted
  split
  · split
    · exact State.sameOutside_trans s.creditAccepted_sameOutside (State.found_sameOutside _)
    · exact State.sameOutside_trans s.creditAccepted_sameOutside (State.becomeAdmitted_sameOutside _)
  · exact State.sameOutside_trans s.creditAccepted_sameOutside (State.accept_sameOutside _ _ _)

theorem State.ownOutcome_sameOutside (s : State) (f : Frame) (x : Seen) : s.sameOutside (s.ownOutcome f x) := by
  unfold State.ownOutcome
  split
  · exact s.void_sameOutside
  · split
    · exact s.ownAccepted_sameOutside _ _
    · split
      · exact s.stepped_sameOutside _
      · split
        · exact s.void_sameOutside
        · exact s.ownAccepted_sameOutside _ _

theorem State.endOwnFrame_sameOutside (s : State) (x : InFrame) (f : Frame) (sl : Slots) :
    s.sameOutside (s.endOwnFrame x f sl) :=
  State.sameOutside_trans (State.sameOutside_trans (s.mapLine_sameOutside _) (State.mapCounters_sameOutside _ _))
    (State.ownOutcome_sameOutside _ _ _)

theorem State.activeOutcome_sameOutside (s : State) (f : Frame) (d : Option Slot) (x : Seen) :
    s.sameOutside (s.activeOutcome f d x) := by
  unfold State.activeOutcome
  repeat' split
  all_goals
    first
      | exact s.sameOutside_refl
      | exact s.accept_sameOutside _ _

theorem State.receiverOutcome_sameOutside (s : State) (h : Heard) (d : Option Slot) (x : Seen) :
    s.sameOutside (s.receiverOutcome h d x) := by
  unfold State.receiverOutcome State.mutedOutcome State.admittedOutcome State.fillingOutcome
  repeat' split
  all_goals
    first
      | exact s.sameOutside_refl
      | exact s.activeOutcome_sameOutside _ _ _
      | exact s.accept_sameOutside _ _
      | exact s.acceptFilling_sameOutside _
      | exact s.takeFirstRoll_sameOutside _ _

theorem State.endReceivedFrame_sameOutside (s : State) (x : InFrame) (sl : Slots) :
    s.sameOutside (s.endReceivedFrame x sl) := by
  unfold State.endReceivedFrame
  dsimp only
  split
  · exact State.sameOutside_trans (s.mapLine_sameOutside _) (State.enterDiscord_sameOutside _)
  · exact State.sameOutside_trans (s.mapLine_sameOutside _) (State.receiverOutcome_sameOutside _ _ _ _)

theorem State.checkFrame_sameOutside (s : State) (x : InFrame) (cells : List Level) :
    s.sameOutside (s.checkFrame x cells) := by
  have h : s.sameOutside (s.recordCheck x cells) := by simp [State.recordCheck, State.sameOutside]
  unfold State.checkFrame
  split
  · exact h
  · refine State.sameOutside_trans h ?_
    unfold State.handOn
    have h' := fun (u : State) (f : Frame) =>
      State.sameOutside_trans (u.mapCounters_sameOutside fun c => { c with goodFrames := countUp c.goodFrames })
        (State.hear_sameOutside _ f)
    dsimp only
    split
    · split
      · exact State.sameOutside_trans (h' _ _) (State.enterDiscord_sameOutside _)
      · exact h' _ _
    · exact h' _ _

theorem judgeFault_sameOutside (before after : State) : after.sameOutside (judgeFault before after) := by
  simp [State.sameOutside]

end Sys2Proof.Machine
end

