-- ==== Sys2Proof/Laws/Line.lean ====
section
/-!
SUPPORT. The line: the cells a sender drives, what the slots show, and how the ends of frames unfold at a sender and at a
receiver.
-/

namespace Sys2Proof.Machine

theorem levelOf_recessive (b : Bool) : levelOf b = .recessive ↔ b = true := by cases b <;> simp [levelOf]

/-- The data cells of the precedence byte carry its bits, bit 7 first (R61, R41). -/
theorem sentLevel_precedence (f : Frame) (c : Fin 8) :
    sentLevel f (c.val + 1) = levelOf ((precedenceByte f.body.code f.sender).getLsbD (7 - c.val)) := by
  obtain ⟨rest, h⟩ :
      ∃ rest, frameCells f = byteCells (precedenceByte f.body.code f.sender) ++ rest := by
    simp [frameCells, frameBytes, coveredBytes]
  simp only [sentLevel, h, cellAt]
  generalize precedenceByte f.body.code f.sender = p
  fin_cases c <;> rfl

/-- Three slot cells cannot bring a held run of 8 or less to 12 (R71). -/
theorem not_abandonedInSlots_of_run {l : Line} {x : InFrame} (h : slotRun l x ≤ 8) (sl : Slots) :
    abandonedInSlots l x sl = false := by
  have h3 : ∀ n : Fin 9, ∀ a b c : Level, runReaches n.val [a, b, c] = false := by
    intro n a b c; revert n; cases a <;> cases b <;> cases c <;> decide
  exact h3 ⟨slotRun l x, by omega⟩ _ _ _

/-- After a recessive tail cell three slot cells cannot bring the held run to 12 (R71). -/
theorem not_abandonedInSlots {l : Line} {x : InFrame} (h : x.heard = .unchecked ∨ l.held = 0) (sl : Slots) :
    abandonedInSlots l x sl = false := by
  apply not_abandonedInSlots_of_run
  unfold slotRun
  split
  · omega
  · rcases h with h | h
    · rw [h]; exact Nat.zero_le 8
    · split <;> omega

/-- With no timer's end due there is none to take. -/
theorem takeTimerEnd_of_not_over {s : State} (h : s.station.timerOver = false) : s.takeTimerEnd = s := by
  simp only [Station.timerOver, Bool.or_eq_false_iff] at h
  simp [State.takeTimerEnd, h.1.1, h.1.2, h.2]

theorem hasActivePeer_iff (s : State) : s.hasActivePeer = true ↔ ∃ n, n ≠ s.own ∧ s.peerState n = .active := by
  simp [State.hasActivePeer]

/-- A frame is accepted on the line when VETO is recessive and some receiver, this one or another, drives AGREE (R90). -/
theorem slotsSeen_accepted {slots : Slots} {d : Option Slot} (hv : slots.veto = .recessive) (hd : d ≠ some .veto)
    (ha : slots.agree = .dominant ∨ d = some .agree) : (slotsSeen slots d).accepted = true := by
  rcases slots with ⟨v, a, st⟩
  obtain rfl : v = .recessive := hv
  rcases ha with rfl | rfl
  · simp [Seen.accepted, slotsSeen, slotLevel, hd]
  · simp [Seen.accepted, slotsSeen, slotLevel]

/-- The end of the station's own frame, sent to its end: it leaves the frame and takes the outcome of the slots (R74). -/
theorem exec_ownFrameOutcome {s : State} {f : Frame} (h : s.hasSent f) (slots : Slots) :
    ∃ x : InFrame, x.drive = none
      ∧ exec (.ownFrameOutcome slots) s
        = .next (judgeFault s ((s.mapLine fun l => l.endFrame x slots).ownOutcome f (slotsSeen slots none))) := by
  obtain ⟨hs, cell, hf⟩ := h
  refine ⟨{ cell := cell, role := .transmitter f, heard := .unchecked, drive := none }, rfl, ?_⟩
  simp only [exec, execOwnFrameOutcome, hf]
  rw [if_pos (by simp [hs, not_abandonedInSlots])]
  rfl

/-- The end of the frame of a sender that met a collision: its own VETO voids it, whatever the slots (R68, R74). -/
theorem exec_ownFrameOutcome_collided {s : State} {f : Frame} {awaits : Bool} (h : s.hasCollided f awaits)
    (slots : Slots) :
    ∃ x : InFrame, exec (.ownFrameOutcome slots) s
      = .next (judgeFault s (((s.mapLine fun l => l.endFrame x slots).countVeto awaits).void)) := by
  obtain ⟨hs, cell, heard, hf, hw, hr⟩ := h
  refine ⟨{ cell := cell, role := .collided f, heard := heard, drive := some .veto }, ?_⟩
  have ha : abandonedInSlots s.line { cell := cell, role := .collided f, heard := heard, drive := some .veto } slots
      = false := by
    rcases hr with hr | hr
    · apply not_abandonedInSlots_of_run
      rw [hw] at hr
      simp [slotRun, InFrame.awaitsVeto, Frame.vetoCell, of_decide_eq_true hr]
    · exact not_abandonedInSlots hr slots
  simp only [exec, execOwnFrameOutcome, hf]
  rw [if_pos (by simp [hs, ha])]
  simp only [State.endOwnFrame, State.ownOutcome, slotsSeen, slotLevel, if_true]
  rw [hw]
  rfl

/-- The end of a received frame that the station has checked (R89). -/
theorem exec_receivedFrameOutcome {s : State} {f : Frame} {drive : Option Slot} (h : s.hasHeard f drive)
    (slots : Slots) :
    ∃ x : InFrame, x.drive = drive ∧ x.heard = .wellFormed f
      ∧ exec (.receivedFrameOutcome slots) s = .next (judgeFault s (s.endReceivedFrame x slots)) := by
  obtain ⟨hs, ht, hh, cell, hf⟩ := h
  refine ⟨{ cell := cell, role := .receiver, heard := .wellFormed f, drive := drive }, rfl, rfl, ?_⟩
  simp only [exec, execReceivedFrameOutcome, hf, takeTimerEnd_of_not_over ht]
  rw [if_pos (by simp [hs, not_abandonedInSlots, hh])]

/-- The end of a frame that the station received and misread: only a MUTED station acts on it (R89, R91). -/
theorem exec_receivedFrameOutcome_misread {s : State} {drive : Option Slot} (h : s.hasMisread drive) (slots : Slots) :
    ∃ x : InFrame, exec (.receivedFrameOutcome slots) s
      = .next (judgeFault s ((s.mapLine fun l => l.endFrame x slots).receiverOutcome .formatError drive
          (slotsSeen slots drive))) := by
  obtain ⟨hs, ht, hh, cell, hf⟩ := h
  refine ⟨{ cell := cell, role := .receiver, heard := .formatError, drive := drive }, ?_⟩
  simp only [exec, execReceivedFrameOutcome, hf, takeTimerEnd_of_not_over ht]
  rw [if_pos (by
    rw [hs, not_abandonedInSlots_of_run (by simpa [slotRun, InFrame.awaitsVeto] using hh)]; rfl)]
  rfl

/-- Where the frame does not carry the own number, the receiver's outcome is that of its state (R97). -/
theorem endReceivedFrame_of_peer {s : State} {x : InFrame} {f : Frame} (hx : x.heard = .wellFormed f)
    (hs : f.sender ≠ s.own) (slots : Slots) :
    s.endReceivedFrame x slots
      = (s.mapLine fun l => l.endFrame x slots).receiverOutcome x.heard x.drive (slotsSeen slots x.drive) := by
  unfold State.endReceivedFrame
  have hd : s.duplicate x.heard = false := by simp [hx, State.duplicate, hs]
  dsimp only
  rw [hd]
  rfl

/-- The line after a STEP cell (R64). -/
theorem endFrame_leftFrame (l : Line) (x : InFrame) (slots : Slots) : l.leftFrame (l.endFrame x slots) :=
  ⟨rfl, rfl, rfl, rfl⟩

end Sys2Proof.Machine
end

