-- ==== Sys2Proof/Laws/Offers.lean ====
section
/-!
SUPPORT. The offers of a removal acceptance and of reconciliation: what the requeues of R144 and R131 leave of the points
and of the outbox, and which fields reconciliation (R145) reads.
-/

namespace Sys2Proof.Machine

/-! Requeue of WAITING points (R144). -/

/-- The sequence that a removal acceptance republishes for a WAITING point (Table 8-2). -/
theorem requeueSequence_subjects (s : State) (p : LocalPoint) :
    (requeueSequence (s.pointSettings p).mode (s.points[p]).abnormal (s.points[p]).caught).map (fun k => k.subject p)
      = s.requeued p := by
  unfold State.requeued State.pointSettings requeueSequence
  generalize (s.inUse.points[p]).mode = m
  generalize s.points[p] = e
  rcases e with ⟨r, a, c, w, d⟩
  cases m <;> cases a <;> cases c <;> rfl

theorem State.requeuePoint_outbox {s : State} (h : s.isActive = true) (p : LocalPoint) :
    (s.requeuePoint p).outbox = s.requeueOutbox s.outbox p := by
  have hq := requeueSequence_subjects s p
  unfold State.requeuePoint State.requeueOutbox
  dsimp only
  rw [← hq]
  generalize requeueSequence (s.pointSettings p).mode (s.points[p]).abnormal (s.points[p]).caught = q
  have ha : ∀ f : Point → Point, (s.mapPoint p f).isActive = s.isActive := fun _ => rfl
  by_cases hw : (s.points[p]).waiting = true
  · rw [if_pos hw]
    rcases q with _ | ⟨k, q⟩
    · simp [State.republish, State.offer]
    · rw [if_pos ⟨hw, by simp⟩]
      simp only [State.republish, State.offer, ha, h, if_true]
      simp [Outbox.republish, pendingEntry, Function.comp_def]
  · rw [if_neg hw, if_neg fun h' => hw h'.1]

theorem State.requeuePoint_points (s : State) (p q : LocalPoint) :
    (s.requeuePoint p).points[q] = if q = p then { s.points[q] with waiting := false } else s.points[q] := by
  unfold State.requeuePoint
  dsimp only
  by_cases hw : (s.points[p]).waiting = true
  · rw [if_pos hw]
    simp only [State.republish, State.offer, State.mapPoint, update_get]
    by_cases hq : q = p
    · subst hq; rfl
    · rw [if_neg hq, if_neg hq]
  · rw [if_neg hw]
    by_cases hq : q = p
    · subst hq
      rw [if_pos rfl, ← Bool.eq_false_iff.2 hw]
    · rw [if_neg hq]

theorem State.requeuePoints (s t : State) (l : List LocalPoint) (hl : l.Nodup) (hst : t.isActive = true)
    (hse : t.settings = s.settings) (hp : ∀ p ∈ l, t.points[p] = s.points[p]) :
    (l.foldl State.requeuePoint t).outbox = l.foldl s.requeueOutbox t.outbox
    ∧ ∀ q : LocalPoint, (l.foldl State.requeuePoint t).points[q]
        = if q ∈ l then { t.points[q] with waiting := false } else t.points[q] := by
  induction l generalizing t with
  | nil => simp
  | cons p l ih =>
    obtain ⟨hp1, hl'⟩ := List.nodup_cons.1 hl
    have hu := t.requeuePoint_pointsOnly p
    obtain ⟨pts, ob, hu⟩ := hu
    have ho := State.requeuePoint_outbox hst p
    have hpt := t.requeuePoint_points p
    have hsame : t.requeueOutbox t.outbox p = s.requeueOutbox t.outbox p := by
      unfold State.requeueOutbox State.requeued
      rw [inUse_congr hse, hp p (by simp)]
    obtain ⟨h1, h2⟩ := ih (t.requeuePoint p) hl' (by rw [hu]; exact hst) (by rw [hu]; exact hse) fun q hq => by
      rw [hpt, if_neg fun h => hp1 (by rw [← h]; exact hq), hp q (by simp [hq])]
    refine ⟨by rw [List.foldl_cons, List.foldl_cons, h1, ho, hsame], fun q => ?_⟩
    rw [List.foldl_cons, h2, hpt]
    by_cases hq : q = p
    · subst hq; simp [hp1]
    · simp [hq]

/-! Requeue of SILENT peers (R131). -/

theorem State.requeueLoss_outbox {t : State} (h : t.isActive = true) (n : StationNo) :
    (t.requeueLoss n).outbox = t.lossRequeueOutbox t t.outbox n := by
  have hr : holds t.annList.records (lossPoint n) = false
      ↔ (t.annList.records.all fun r => r.id != lossPoint n) = true := by simp [holds]
  unfold State.requeueLoss State.lossRequeueOutbox
  simp only [hr]
  by_cases hc : n ≠ t.own ∧ t.peerState n = .silent ∧ (t.annList.records.all fun r => r.id != lossPoint n) = true
  · obtain ⟨c1, c2, c3⟩ := hc
    rw [if_pos ⟨c1, c2, c3⟩]
    simp only [State.offer, h, if_true, Outbox.lossOffer]
    simp only [c1, c2, c3, ne_eq, not_false_eq_true, true_and]
    cases t.outbox.has (.loss n) <;> cases t.outbox.has (.transferRoll n) <;> rfl
  · rw [if_neg hc, if_neg fun h' => hc ⟨h'.1, h'.2.1, h'.2.2.1⟩]

theorem State.requeueLosses_outbox (s t : State) (l : List StationNo) (hst : t.isActive = true)
    (hse : t.settings = s.settings) :
    (l.foldl State.requeueLoss t).outbox = l.foldl (s.lossRequeueOutbox t) t.outbox := by
  suffices h : ∀ v : State, (∃ o, v = { t with outbox := o }) →
      (l.foldl State.requeueLoss v).outbox = l.foldl (s.lossRequeueOutbox t) v.outbox from h t ⟨t.outbox, rfl⟩
  induction l with
  | nil => intro v _; rfl
  | cons n l ih =>
    rintro v ⟨o, rfl⟩
    have h1 := State.requeueLoss_outbox (t := { t with outbox := o }) hst n
    have h2 : ∃ o', State.requeueLoss { t with outbox := o } n = { t with outbox := o' } := by
      unfold State.requeueLoss State.offer
      split
      · exact ⟨_, rfl⟩
      · exact ⟨o, rfl⟩
    rw [List.foldl_cons, List.foldl_cons, ih _ h2, h1]
    have ho : State.own { t with outbox := o } = s.own := own_congr hse
    congr 1
    unfold State.lossRequeueOutbox
    rw [ho]
    rfl

theorem State.requeueLosses_points (v : State) : v.requeueLosses.points = v.points := by
  unfold State.requeueLosses
  generalize List.finRange 32 = l
  induction l generalizing v with
  | nil => rfl
  | cons n l ih =>
    rw [List.foldl_cons, ih]
    unfold State.requeueLoss
    split <;> rfl

theorem State.requeueLosses_afterWaiting (s : State) (ha : s.isActive = true) :
    s.requeueWaiting.requeueLosses.outbox
      = (List.finRange 32).foldl (s.lossRequeueOutbox s) s.requeueWaiting.outbox := by
  obtain ⟨pts, ob, hu⟩ := s.requeueWaiting_pointsOnly
  generalize s.requeueWaiting = v at hu
  subst hu
  unfold State.requeueLosses
  generalize List.finRange 32 = l
  exact State.requeueLosses_outbox s _ l ha rfl

/-! Both, at a removal acceptance. -/

/-- The offers of a removal acceptance at an ACTIVE station (R144, R131). -/
theorem State.afterRemoval_eq {s : State} (h : s.station = .active) :
    (s.afterRemoval true).outbox = s.removalOffers s s.outbox
    ∧ ∀ p : LocalPoint, (s.afterRemoval true).points[p] = { s.points[p] with waiting := false } := by
  have ha : s.isActive = true := by simp [State.isActive, h]
  obtain ⟨h1, h2⟩ := s.requeuePoints s (List.finRange 8) (List.nodup_finRange 8) ha rfl fun _ _ => rfl
  have hw : s.requeueWaiting = (List.finRange 8).foldl State.requeuePoint s := by
    rw [State.requeueWaiting, if_pos ha]
  rw [← hw] at h1 h2
  have h3 := s.requeueLosses_afterWaiting ha
  have h6 : s.afterRemoval true = s.requeueWaiting.requeueLosses := by rw [State.afterRemoval, if_pos rfl]
  refine ⟨by rw [h6, h3, h1, State.removalOffers], fun p => ?_⟩
  have h4 : (s.afterRemoval true).points = s.requeueWaiting.points := by rw [h6, State.requeueLosses_points]
  simp only [h4]
  exact (h2 p).trans (if_pos (List.mem_finRange p))

/-- Points, settings, presence table and records are all that the offers of a removal acceptance read. -/
theorem State.removalOffers_congr {s u t : State} (hp : u.points = s.points) (hs : u.settings = s.settings)
    (hn : t.presence.peers = u.presence.peers) (ha : t.annList.records = u.annList.records) :
    u.removalOffers u = s.removalOffers t := by
  have h1 : u.requeueOutbox = s.requeueOutbox := by
    funext o p
    unfold State.requeueOutbox State.requeued
    rw [hp, inUse_congr hs]
  have h2 : u.lossRequeueOutbox u = s.lossRequeueOutbox t := by
    funext o n
    unfold State.lossRequeueOutbox State.peerState
    rw [hn, ha, own_congr hs]
  funext o
  rw [State.removalOffers, State.removalOffers, h1, h2]

/-! Reconciliation (R145). -/

/-- Reconciliation reads station state, settings, records, points and outbox alone. -/
theorem State.reconcilePoint_congr {s t : State} (h1 : t.station = s.station) (h2 : t.settings = s.settings)
    (h3 : t.annList.records = s.annList.records) (h4 : t.points = s.points) (h5 : t.outbox = s.outbox)
    (p : LocalPoint) :
    (t.reconcilePoint p).points = (s.reconcilePoint p).points
    ∧ (t.reconcilePoint p).outbox = (s.reconcilePoint p).outbox := by
  have ha : ∀ (f g : Point → Point), (t.mapPoint p f).isActive = (s.mapPoint p g).isActive := fun f g => by
    unfold State.isActive State.mapPoint
    dsimp only
    simp only [h1]
  unfold State.reconcilePoint State.republish State.offer State.pointSettings
  dsimp only
  rw [h3, own_congr h2, inUse_congr h2]
  simp only [State.mapPoint_points, State.mapPoint_outbox, h4, h5]
  refine ⟨trivial, ?_⟩
  rw [ha]

theorem State.reconcilePoints_congr (l : List LocalPoint) {s t : State} (h1 : t.station = s.station)
    (h2 : t.settings = s.settings) (h3 : t.annList.records = s.annList.records) (h4 : t.points = s.points)
    (h5 : t.outbox = s.outbox) :
    (l.foldl State.reconcilePoint t).points = (l.foldl State.reconcilePoint s).points
    ∧ (l.foldl State.reconcilePoint t).outbox = (l.foldl State.reconcilePoint s).outbox := by
  induction l generalizing s t with
  | nil => exact ⟨h4, h5⟩
  | cons p l ih =>
    obtain ⟨h6, h7⟩ := State.reconcilePoint_congr h1 h2 h3 h4 h5 p
    obtain ⟨_, _, hs⟩ := s.reconcilePoint_pointsOnly p
    obtain ⟨_, _, ht⟩ := t.reconcilePoint_pointsOnly p
    exact ih (by rw [hs, ht]; exact h1) (by rw [hs, ht]; exact h2) (by rw [hs, ht]; exact h3) h6 h7

end Sys2Proof.Machine
end

