-- ==== Sys2Proof/Laws/Outbox.lean ====
section
/-!
SUPPORT. The outbox: which entry is eligible and chosen, and where launching, withdrawing and landing leave the entries.
-/

namespace Sys2Proof.Machine

/-! Eligibility and choice (R46, R47). -/

theorem ofPoint_eq_false (p : LocalPoint) (x : Subject) : x.ofPoint p = false ↔ x ≠ .raise p ∧ x ≠ .ret p := by
  cases x <;> simp [Subject.ofPoint]

/-- An entry is eligible when it is pending and, of a field point, the oldest of that point (R46). -/
theorem eligibleAfter_iff (older : List Entry) (e : Entry) :
    eligibleAfter older e = true
      ↔ e.inFlight = false
        ∧ ∀ p, e.subject = .raise p ∨ e.subject = .ret p →
            ∀ x ∈ older, x.subject ≠ .raise p ∧ x.subject ≠ .ret p := by
  rcases e with ⟨x, b⟩
  cases x <;> simp [eligibleAfter, ofPoint_eq_false]

theorem mem_eligibleEntries (older l : List Entry) (e : Entry) :
    e ∈ eligibleEntries older l ↔ ∃ a b, l = a ++ e :: b ∧ eligibleAfter (older ++ a) e = true := by
  induction l generalizing older with
  | nil => simp [eligibleEntries]
  | cons x xs ih =>
    have split_first :
        (∃ a b, x :: xs = a ++ e :: b ∧ eligibleAfter (older ++ a) e = true)
          ↔ (x = e ∧ eligibleAfter older e = true)
            ∨ ∃ a b, xs = a ++ e :: b ∧ eligibleAfter (older ++ [x] ++ a) e = true := by
      constructor
      · rintro ⟨a, b, h, h'⟩
        cases a with
        | nil =>
          simp only [List.nil_append, List.cons.injEq, List.append_nil] at h h'
          exact Or.inl ⟨h.1, h'⟩
        | cons y ys =>
          simp only [List.cons_append, List.cons.injEq] at h
          exact Or.inr ⟨ys, b, h.2, by simpa [h.1] using h'⟩
      · rintro (⟨rfl, h⟩ | ⟨a, b, rfl, h⟩)
        · exact ⟨[], xs, rfl, by simpa using h⟩
        · exact ⟨x :: a, b, rfl, by simpa using h⟩
    rw [split_first, eligibleEntries]
    split
    · rename_i h
      rw [List.mem_cons, ih]
      constructor
      · rintro (rfl | h')
        · exact Or.inl ⟨rfl, h⟩
        · exact Or.inr h'
      · rintro (⟨rfl, -⟩ | h')
        · exact Or.inl rfl
        · exact Or.inr h'
    · rename_i h
      rw [ih]
      constructor
      · exact Or.inr
      · rintro (⟨rfl, h'⟩ | h')
        · exact absurd h' h
        · exact h'

theorem lowestCode_eq_none (l : List Entry) : lowestCode l = none ↔ l = [] := by
  cases l with
  | nil => simp [lowestCode]
  | cons e r => simp only [lowestCode]; split <;> (try split) <;> simp

theorem lowestCode_mem {l : List Entry} {x : Entry} (h : lowestCode l = some x) : x ∈ l := by
  induction l generalizing x with
  | nil => cases h
  | cons e r ih =>
    simp only [lowestCode] at h
    split at h
    · obtain rfl := Option.some.inj h; exact List.mem_cons_self ..
    · rename_i b hb
      split at h <;> obtain rfl := Option.some.inj h
      · exact List.mem_cons_self ..
      · exact List.mem_cons_of_mem _ (ih hb)

/-- The chosen subject is that of a pending entry. -/
theorem choice_pending {o : Outbox} {x : Subject} (h : o.choice = some x) : (⟨x, false⟩ : Entry) ∈ o.entries := by
  obtain ⟨e, he, rfl⟩ := Option.map_eq_some_iff.1 h
  obtain ⟨a, b, hs, he⟩ := (mem_eligibleEntries _ _ _).1 (lowestCode_mem he)
  have hf := ((eligibleAfter_iff _ _).1 he).1
  rw [hs]
  rcases e with ⟨y, c⟩
  subst hf
  simp

/-! Launching, withdrawing, landing. -/

/-- A launch takes one pending entry of the subject in flight and leaves every other entry in its place (R48). -/
theorem launchEntry_at {x : Subject} {l : List Entry} (h : (⟨x, false⟩ : Entry) ∈ l) :
    ∃ older newer, l = older ++ ⟨x, false⟩ :: newer ∧ launchEntry x l = older ++ ⟨x, true⟩ :: newer
      ∧ (⟨x, false⟩ : Entry) ∉ older := by
  induction l with
  | nil => simp at h
  | cons e r ih =>
    by_cases he : e = ⟨x, false⟩
    · subst he
      exact ⟨[], r, rfl, by simp [launchEntry, isPending], by simp⟩
    · obtain ⟨a, b, h1, h2, h3⟩ := ih ((List.mem_cons.1 h).resolve_left (Ne.symm he))
      refine ⟨e :: a, b, by simp [h1], ?_, by simp [h3, Ne.symm he]⟩
      have hp : isPending x e = false := by
        rcases e with ⟨y, c⟩
        simp only [isPending, Bool.and_eq_false_iff, beq_eq_false_iff_ne]
        cases c
        · exact Or.inl fun h' => he (by rw [h'])
        · exact Or.inr rfl
      simp [launchEntry, hp, h2]

/-- Withdrawal removes the pending entry of the subject and leaves one in flight (R55). -/
theorem withdraw_entries (o : Outbox) (x : Subject) :
    (o.withdraw x).entries = o.entries.filter fun e => e != ⟨x, false⟩ := by
  refine List.filter_congr fun e _ => ?_
  rcases e with ⟨y, c⟩
  cases c <;> simp [isPending, bne]

@[simp] theorem withdraw_owed (o : Outbox) (x : Subject) : (o.withdraw x).owed = o.owed := rfl

/-- Landing at the entry in flight: it is pending in its place (R48), a newer pending group action of its kind goes
(R152). -/
theorem landEntries_at {x : Subject} {older newer : List Entry} (h : ∀ e ∈ older, e.inFlight = false) :
    landEntries (older ++ ⟨x, true⟩ :: newer)
      = older ++ ⟨x, false⟩ :: (if x.isGroupAction then newer.filter fun e => !isPending x e else newer) := by
  induction older with
  | nil => simp [landEntries]
  | cons e r ih =>
    have he := h e (List.mem_cons_self ..)
    simp only [List.cons_append, landEntries, he, Bool.false_eq_true, if_false]
    rw [ih fun e he => h e (List.mem_cons_of_mem _ he)]

/-- With nothing in flight, landing and departing change nothing. -/
theorem landEntries_of_none {l : List Entry} (h : ∀ e ∈ l, e.inFlight = false) : landEntries l = l := by
  induction l with
  | nil => rfl
  | cons e r ih =>
    have he := h e (List.mem_cons_self ..)
    simp only [landEntries, he, Bool.false_eq_true, if_false]
    rw [ih fun e he => h e (List.mem_cons_of_mem _ he)]

theorem flying_at {o : Outbox} {x : Subject} {older newer : List Entry} (ho : o.entries = older ++ ⟨x, true⟩ :: newer)
    (h : ∀ e ∈ older, e.inFlight = false) : o.flying = some x := by
  have hn : older.find? Entry.inFlight = none := List.find?_eq_none.2 fun e he => by simp [h e he]
  simp [Outbox.flying, ho, List.find?_append, hn]

/-- Only a RETURN's flight can owe a pair (R50). -/
theorem settle_of_ne_ret (o : Outbox) (x : Subject) (h : ∀ p, x ≠ .ret p) : o.settle (some x) = o := by
  unfold Outbox.settle
  split
  · rename_i p hp; exact absurd (Option.some.inj hp) (h p)
  · rfl

theorem land_of_none {o : Outbox} (h : ∀ e ∈ o.entries, e.inFlight = false) : o.land = o := by
  have hn : o.entries.find? Entry.inFlight = none := List.find?_eq_none.2 fun e he => by simp [h e he]
  simp [Outbox.land, Outbox.flying, hn, Outbox.settle, landEntries_of_none h]

end Sys2Proof.Machine
end

