-- ==== Sys2Proof/Laws/Port.lean ====
section
/-!
SUPPORT. The service port: the bytes that a selection's bits make, when a request is taken, answered BUSY or not served,
and what an answer leaves.
-/

namespace Sys2Proof.Machine

/-- The bits of whole bytes, each most significant bit first, are read as those bytes, whatever unfinished byte follows
them (R178). -/
theorem bytesOfBits_of_bytes (bytes : List Byte) (unfinished : List Bool) (h : unfinished.length < 8) :
    bytesOfBits (bytes.flatMap byteBits ++ unfinished) = bytes := by
  have hv : ∀ b : Byte, BitVec.ofNat 8 (bitsValue (byteBits b)) = b := by decide +kernel
  induction bytes with
  | nil =>
    rcases unfinished with _ | ⟨_, _ | ⟨_, _ | ⟨_, _ | ⟨_, _ | ⟨_, _ | ⟨_, _ | ⟨_, _ | ⟨_, _⟩⟩⟩⟩⟩⟩⟩⟩ <;> first | rfl | simp at h
    omega
  | cons b bytes ih =>
    rw [List.flatMap_cons, List.append_assoc]
    exact congr (congrArg List.cons (hv b)) ih

theorem notServed_iff (s : State) : s.notServed = false ↔ s.serves := by
  simp [State.notServed, State.serves, State.running]

/-- A falling edge where no served selection is under way begins one that shifts out the slot, or while a reset lasts one
that is not served (R179). -/
theorem execSelFallingEdge_begins {s : State} (h : s.port.selection ≠ .served) :
    execSelFallingEdge s = .next s.beginSelection := by
  unfold execSelFallingEdge
  split <;> first | contradiction | rfl

/-- A request is taken where selections are served and no burn runs (R178, R181). -/
theorem request_taken {s : State} (h : s.serves) (hb : s.session.phase ≠ .burning) (code : Byte)
    (take : State → State) : s.request code take = take s := by
  simp [State.request, (notServed_iff s).2 h, State.sessionBurning, hb]

/-- A request is answered BUSY while a burn runs (R181). -/
theorem request_busy {s : State} (h : s.serves) (hb : s.session.phase = .burning) (code : Byte)
    (take : State → State) : s.request code take = s.respond .busy code [] := by
  simp [State.request, (notServed_iff s).2 h, State.sessionBurning, hb]

/-- Nothing of a selection that is not served is taken (R179). -/
theorem request_notServed {s : State} (h : ¬s.serves) (code : Byte) (take : State → State) :
    s.request code take = s.endUnserved := by
  have hn : s.notServed = true := by
    cases hc : s.notServed
    · exact absurd ((notServed_iff s).1 hc) h
    · rfl
  simp [State.request, hn]

/-- An answer fills the slot with status, code and fields and ends the selection (R179, R195). -/
theorem respond_answered (s : State) (st : Status) (code : Byte) (fields : List Byte) :
    s.answered (s.respond st code fields) (st.byte :: code :: fields) :=
  ⟨rfl, rfl, rfl⟩

/-- An answer changes nothing but the port. -/
theorem respond_eq (s : State) (st : Status) (code : Byte) (fields : List Byte) :
    s.respond st code fields = { s with port := (s.respond st code fields).port } := rfl

end Sys2Proof.Machine
end

