-- ==== Sys2Proof/Laws/Presence.lean ====
section
/-!
SUPPORT. The presence table at an accepted bulletin (Table 7-3), row by row and as a whole, for each peer's entry.
-/

namespace Sys2Proof.Machine

/-- An entry after a write of its state: a change clears its silence counter (R122). -/
def Peer.turned (e : Peer) (st : PeerState) : Peer := if e.state = st then e else ⟨st, 0, false⟩

/-- A write of a peer's state (R122, R123). -/
theorem State.setPeer_of_peer (s : State) (m n : StationNo) (st : PeerState) (hn : n ≠ s.own) :
    (s.setPeer m st).presence.peers[n] = if n = m then (s.presence.peers[n]).turned st else s.presence.peers[n] := by
  rw [State.setPeer_get]
  by_cases h : n = m
  · subst h
    have : s.peerState n = (s.presence.peers[n]).state := rfl
    rw [if_pos rfl, Peer.turned, this]
    by_cases h' : (s.presence.peers[n]).state = st <;> simp [hn]
  · simp [h]

/-- The last row of Table 7-3. -/
theorem State.noteSender_of_peer (s : State) (m n : StationNo) (hn : n ≠ s.own) :
    (s.noteSender m).presence.peers[n]
      = if n = m then (s.presence.peers[n]).turned (notedState (s.presence.peers[n]).state)
        else s.presence.peers[n] := by
  unfold State.noteSender
  by_cases h : n = m
  · subst h
    rw [if_pos rfl, show s.peerState n = (s.presence.peers[n]).state from rfl]
    cases hs : (s.presence.peers[n]).state
    all_goals dsimp only [notedState]
    all_goals first | rw [State.setPeer_of_peer _ _ _ _ hn, if_pos rfl] | rw [Peer.turned, if_pos hs]
  · rw [if_neg h]
    split <;> first | rfl | rw [State.setPeer_of_peer _ _ _ _ hn, if_neg h]

/-- The LOSS row of Table 7-3. -/
theorem State.markLost_of_peer (s : State) (b : PeerState) (m n : StationNo) (hn : n ≠ s.own) :
    (s.markLost b m).presence.peers[n]
      = if n = m ∧ b ≠ .silent ∧ b ≠ .discord then (s.presence.peers[n]).turned .silent else s.presence.peers[n] := by
  cases b <;> simp [State.markLost, State.setPeer_of_peer _ _ _ _ hn]

/-- The transfer roll rows of Table 7-3. -/
theorem State.noteTarget_of_peer (s : State) (r : Roll) (n : StationNo) (hn : n ≠ s.own) :
    (s.noteTarget r).presence.peers[n]
      = if n = r.target then
          { (if r.last = true ∧ (s.presence.peers[n]).state ≠ .discord then (s.presence.peers[n]).turned .active
              else s.presence.peers[n]) with silence := 0 }
        else s.presence.peers[n] := by
  unfold State.noteTarget
  rw [State.clearSilence_get]
  by_cases h : n = r.target
  · subst h
    rw [if_pos rfl, if_pos rfl, show s.peerState r.target = (s.presence.peers[r.target]).state from rfl]
    by_cases hc : r.last = true ∧ (s.presence.peers[r.target]).state ≠ .discord
    · rw [if_pos hc, if_pos (by simpa using hc), State.setPeer_of_peer _ _ _ _ hn, if_pos rfl]
    · rw [if_neg hc, if_neg (by simpa using hc)]
  · rw [if_neg h, if_neg h]
    split
    · rw [State.setPeer_of_peer _ _ _ _ hn, if_neg h]
    · rfl

/-- Table 7-3: what an accepted bulletin leaves of a peer's entry, where it is no JOIN or the station is passive (R124). -/
theorem State.presenceEffects_of_peer (s : State) (how : Acceptance) (f : Frame)
    (h : f.isJoin = false ∨ how = .muted ∨ how = .filling) (n : StationNo) (hn : n ≠ s.own) :
    (s.presenceEffects how f).presence.peers[n] = f.peerAfter n (s.presence.peers[n]) := by
  have hn' : n ≠ (s.noteSender f.sender).own := by
    rw [own_congr (State.presenceOnly_settings (s.noteSender_presenceOnly _))]; exact hn
  have hsend := s.noteSender_of_peer f.sender n hn
  unfold State.presenceEffects Frame.peerAfter Frame.entryAfter
  rcases hb : f.body with _ | k | _ | _ | _ | _ | _ | r | _
  all_goals dsimp only
  case loss =>
    rw [State.markLost_of_peer _ _ _ _ hn', hsend]
    by_cases hk : n = k
    · subst hk
      rw [show s.peerState n = (s.presence.peers[n]).state from rfl]
      generalize s.presence.peers[n] = e
      rcases e with ⟨st, si, d⟩
      by_cases hs : n = f.sender <;> cases st <;> simp [hs, Peer.turned, notedState]
    · simp only [hk, false_and, if_false]
      generalize s.presence.peers[n] = e
      rcases e with ⟨st, si, d⟩
      by_cases hs : n = f.sender <;> cases st <;> simp [hs, Peer.turned, notedState]
  case transferRoll =>
    rw [State.noteTarget_of_peer _ _ _ hn', hsend]
    generalize s.presence.peers[n] = e
    rcases e with ⟨st, si, d⟩
    rcases Classical.propComplete (n = r.target) with ht | ht <;>
      rcases Classical.propComplete (n = f.sender) with hs | hs <;> by_cases hl : r.last = true <;>
      simp only [ht, hs, hl, true_and, false_and, if_true, if_false] <;> cases st <;>
      simp [Peer.turned, notedState]
  case join =>
    have hm : how = .muted ∨ how = .filling := by rcases h with h | h; simp [Frame.isJoin, hb] at h; exact h
    have h1 : s.noteJoin how f.sender = if s.peerState f.sender = .discord then s else s.setPeer f.sender .joining := by
      rcases hm with rfl | rfl <;> rfl
    rw [h1]
    by_cases hs : n = f.sender
    · subst hs
      rw [show s.peerState f.sender = (s.presence.peers[f.sender]).state from rfl]
      by_cases hd : (s.presence.peers[f.sender]).state = .discord
      · rw [if_pos hd, if_neg fun h' => h' (if_neg fun h'' => h''.2 hd)]
      · rw [if_neg hd, State.setPeer_of_peer _ _ _ _ hn, if_pos rfl]
        generalize s.presence.peers[f.sender] = e at hd ⊢
        rcases e with ⟨st, si, d⟩
        cases st <;> simp [Peer.turned] at *
    · simp only [hs, false_and, if_false]
      split
      · simp
      · rw [State.setPeer_of_peer _ _ _ _ hn, if_neg hs]; simp
  all_goals
    rw [hsend]
    generalize s.presence.peers[n] = e
    rcases e with ⟨st, si, d⟩
    by_cases hs : n = f.sender <;> cases st <;> simp [hs, Peer.turned, notedState]

end Sys2Proof.Machine
end

