-- ==== Sys2Proof/Laws/Transfer.lean ====
section
/-!
SUPPORT. Taking a transfer roll: what the operations of R110 to R113 leave of a joiner, in the terms of `State.takesRoll`.
-/

namespace Sys2Proof.Machine

/-! The marks of R126. -/

/-- A loss record in ALERT or HELD for the station stands in the list. -/
abbrev lossShown (rs : List Record) (n : StationNo) : Prop :=
  ∃ x ∈ rs, x.id = lossPoint n ∧ (x.state = .alert ∨ x.state = .held)

/-- One peer's mark: an ALERT or HELD loss record makes it SILENT unless it is DISCORD; other peers stay (R126). -/
theorem State.markFromList_peerState (s : State) (hn : (s.annList.records.map Record.id).Nodup) (n m : StationNo)
    (hm : m ≠ s.own) :
    (s.markFromList n).peerState m
      = if m = n ∧ s.peerState m ≠ .discord ∧ lossShown s.annList.records m then .silent else s.peerState m := by
  have hset : ∀ st, (s.setPeer n st).peerState m = if m = n then st else s.peerState m := by
    intro st
    rw [State.setPeer_peerState]
    by_cases h : m = n
    · subst h; simp [hm]
    · simp [h]
  unfold State.markFromList
  by_cases hmn : m = n
  · subst hmn
    by_cases hl : lossShown s.annList.records m
    · obtain ⟨x, hx, hid, hst⟩ := hl
      have hf := findRecord_of_mem hn hx
      rw [hid] at hf
      have hl : lossShown s.annList.records m := ⟨x, hx, hid, hst⟩
      rw [hf]
      rcases hst with h | h <;> simp only [Option.map_some, h] <;> split <;> simp_all
    · have hno : ∀ x, findRecord s.annList.records (lossPoint m) = some x → x.state ≠ .alert ∧ x.state ≠ .held := by
        intro x hx
        have h1 := List.find?_some hx
        have h2 := List.mem_of_find?_eq_some hx
        exact ⟨fun h => hl ⟨x, h2, by simpa using h1, Or.inl h⟩, fun h => hl ⟨x, h2, by simpa using h1, Or.inr h⟩⟩
      have hr : ∀ a : PeerState, (if m = m ∧ s.peerState m ≠ .discord ∧ lossShown s.annList.records m then a
          else s.peerState m) = s.peerState m := fun a => if_neg fun h => hl h.2.2
      rw [hr]
      cases hf : findRecord s.annList.records (lossPoint m) with
      | none => rfl
      | some x =>
        obtain ⟨h1, h2⟩ := hno x hf
        simp only [Option.map_some]
        cases hst : x.state <;> simp_all
  · have hr : ∀ a : PeerState, (if m = n ∧ s.peerState m ≠ .discord ∧ lossShown s.annList.records m then a
        else s.peerState m) = s.peerState m := fun a => if_neg fun h => hmn h.1
    rw [hr]
    repeat' split
    all_goals first | rfl | (rw [hset, if_neg hmn])

theorem State.markFromLossRecords_peerState (s : State) (hn : (s.annList.records.map Record.id).Nodup) (m : StationNo)
    (hm : m ≠ s.own) :
    s.markFromLossRecords.peerState m
      = if s.peerState m ≠ .discord ∧ lossShown s.annList.records m then .silent else s.peerState m := by
  suffices h : ∀ (l : List StationNo) (v : State), v.annList = s.annList → v.settings = s.settings →
      (l.foldl State.markFromList v).peerState m
        = if m ∈ l ∧ v.peerState m ≠ .discord ∧ lossShown s.annList.records m then .silent else v.peerState m by
    have := h (List.finRange 32) s rfl rfl
    rw [State.markFromLossRecords, this]
    simp [List.mem_finRange]
  intro l
  induction l with
  | nil => intro v _ _; simp
  | cons n l ih =>
    intro v ha hse
    have hp := v.markFromList_presenceOnly n
    rw [List.foldl_cons, ih _ (by rw [State.presenceOnly_annList hp, ha]) (by rw [State.presenceOnly_settings hp, hse]),
      v.markFromList_peerState (by rw [ha]; exact hn) n m (by rw [own_congr hse]; exact hm), ha]
    by_cases hmn : m = n
    · subst hmn
      by_cases hl : lossShown s.annList.records m <;> by_cases hd : v.peerState m = .discord <;> simp [hl, hd]
    · simp [hmn]

/-! Taking a roll. -/

/-- What taking a transfer roll leaves (R110 to R113, R116): `v` is the joiner `s` once the line count and the presence
changes of the roll's acceptance are made. -/
theorem State.takeRoll_takesRoll {s v : State} (sender : StationNo) (r : Roll) (ha : v.annList = s.annList)
    (ho : v.outbox = s.outbox) (hp : v.points = s.points) (hse : v.settings = s.settings)
    (hq : v.presence.quiet = s.presence.quiet)
    (hn : ∀ n, n ≠ s.own →
      v.peerState n = if n = sender then notedState (s.peerState n) else s.peerState n) :
    s.takesRoll (v.takeRoll r) sender r := by
  refine ⟨fun ht => ?_, fun rs ht => ?_⟩
  · have h : v.takeRoll r = v.retryJoin := by unfold State.takeRoll; rw [ha, ht]
    rw [h]
    refine ⟨rfl, rfl, hp, hq, rfl, hn, fun he => ?_⟩
    simp [State.retryJoin, State.offerJoin, State.isActive, Outbox.joinOffer, ho, he, Outbox.append, pendingEntry]
  · let w := (v.putList rs v.annList.overflow).putStation (.joining (.filling 0))
    have h : v.takeRoll r = if r.last then w.completeTransfer r.overflow else w := by
      unfold State.takeRoll; rw [ha, ht]; simp only [w, ha]
    cases hl : r.last
    · have h' : v.takeRoll r = w := by rw [h, hl]; rfl
      rw [h']
      exact ⟨rfl, by simp [w, ha], fun _ => ⟨rfl, by simp [w, ha], ho, hp, hq, hn⟩, by simp⟩
    · have h' : v.takeRoll r = w.completeTransfer r.overflow := by rw [h, hl]; rfl
      let y := ((w.putList w.annList.records
        (r.overflow && decide (w.annList.records.length = Config.listCapacity))).enterActive).markFromLossRecords
      have hy := State.markFromLossRecords_presenceOnly ((w.putList w.annList.records
        (r.overflow && decide (w.annList.records.length = Config.listCapacity))).enterActive)
      have h2 : w.completeTransfer r.overflow = y.reconcile := rfl
      have hr := y.reconcile_pointsOnly
      have hya : y.annList = { v.annList with records := rs, overflow := r.overflow && decide (rs.length = 64) } :=
        (State.presenceOnly_annList hy).trans rfl
      rw [h', h2]
      refine ⟨by rw [State.pointsOnly_annList hr, hya], by rw [State.pointsOnly_annList hr, hya]; simp only [ha],
        by simp, fun _ => ?_⟩
      obtain ⟨h3, h4⟩ := State.reconcilePoints_congr (List.finRange 8)
        (s := { s with station := .active, annList := { s.annList with records := rs } }) (t := y)
        (by rw [State.presenceOnly_station hy]; rfl) ((State.presenceOnly_settings hy).trans hse) (by rw [hya])
        ((State.presenceOnly_points hy).trans hp) ((State.presenceOnly_outbox hy).trans ho)
      refine ⟨by rw [State.pointsOnly_station hr]; exact State.presenceOnly_station hy,
        by rw [State.pointsOnly_annList hr, hya], h4, h3,
        by rw [State.pointsOnly_presence hr, State.presenceOnly_quiet hy]; rfl, ?_, fun hnd n hno => ?_⟩
      · rw [State.pointsOnly_port hr, State.presenceOnly_stateChanged hy]; rfl
      · have h5 : y.reconcile.peerState n = y.peerState n := by
          simp only [State.peerState, State.pointsOnly_presence hr]
        rw [h5]
        have h6 := State.markFromLossRecords_peerState ((w.putList w.annList.records
          (r.overflow && decide (w.annList.records.length = Config.listCapacity))).enterActive) hnd n
          (show n ≠ State.own v by rw [own_congr hse]; exact hno)
        refine h6.trans ?_
        have h7 : State.peerState ((w.putList w.annList.records
          (r.overflow && decide (w.annList.records.length = Config.listCapacity))).enterActive) n = v.peerState n := rfl
        rw [h7, hn n hno]
        rfl

end Sys2Proof.Machine
end

