-- ==== Sys2Proof/Tests/Slice0.lean ====
section
/-!
SUPPORT. Tests. Expected results come from the spec's tables, rules and worked examples, named above each test; and a
witness for the premises of every statement that has any (`test_premises_…`).
-/

set_option Elab.async false

namespace Sys2Proof.Tests

open Sys2Proof.Machine

/-! Helpers: stations, frames and one step. -/

/-- Settings of a station: group 2 for every input, LOCKIN, RINGBACK and FIRSTOUT everywhere, debounce count 2. -/
def settingsFor (n : StationNo) : Settings :=
  { number := n, rate := 2, interval := 0, lossGroup := 7
    options := Vector.replicate 8 { lockin := true, ringback := true, autoclear := false, firstout := true }
    points := Vector.replicate 8 { group := 2, mode := .level, activeLow := false, debounce := 1 }
    coverage := 0x0F, windows := Vector.replicate 8 43, digest := 0x1234 }

/-- A running station with its settings, in a station state. -/
def stationIn (n : StationNo) (st : Station) : State :=
  { State.reset with station := st, settings := some (settingsFor n) }

/-- The state after one step that takes the command. -/
def after (c : Instr) (s : State) : State :=
  match step { s with pending := [c] } with
  | .next t => t
  | _ => s

/-- Station 5 sends RAISE for its input 3 in group 2, at line count 144 (12, Worked Example). -/
def raise53 : Frame := { body := .raise 3 2, sender := 5, count := 144 }

/-- A JOIN of station 9 with the settings digest of the tests' stations. -/
def join9 : Frame := { body := .join .start 0x1234, sender := 9, count := 0 }

/-- A station that follows a frame in a role. -/
def following (s : State) (role : Role) (heard : Heard) (drive : Option Slot) : State :=
  { s with lineCount := 144, line := { s.line with frame := some { cell := 50, role, heard, drive } } }

/-- A receiver that found the frame well-formed and drives a slot. -/
def hearing (n : StationNo) (st : Station) (f : Frame) (drive : Option Slot) : State :=
  following (stationIn n st) .receiver (.wellFormed f) drive

/-- A transmitter with its entry in flight. -/
def sending (st : Station) (f : Frame) : State :=
  { following (stationIn f.sender st) (.transmitter f) .unchecked none with
    outbox := { Outbox.reset with entries := [⟨f.body.subject, true⟩] } }

/-- A transmitter in the first cell of its frame. -/
def starting (f : Frame) : State :=
  { sending .active f with
    line := { Line.reset with
      frame := some { cell := 0, role := .transmitter f, heard := .unchecked, drive := none } } }

/-- An ACTIVE station with these entries waiting. -/
def waitingWith (n : StationNo) (xs : List Subject) : State :=
  { stationIn n .active with outbox := { Outbox.reset with entries := xs.map pendingEntry } }

/-- The same station with a peer's entry set. -/
def withPeer (s : State) (n : StationNo) (e : Peer) : State :=
  { s with presence := { s.presence with peers := update s.presence.peers n fun _ => e } }

/-- A record without flags. -/
def rec_ (id : PointId) (st : RecordState) (g : Group) : Record :=
  { id := id, state := st, group := g, firstOut := false, silenced := false }

/-- A list of so many ALERT records, for the points from 0 up. -/
def manyRecords (n : Fin 65) : List Record := (List.finRange n.val).map fun i => rec_ ⟨i.val, by omega⟩ .alert 0

/-- The levels of the three slots on a line that shows the slot alone. -/
def vetoSeen : Slots := ⟨.dominant, .recessive, .recessive⟩
/-- AGREE alone. -/
def agreeSeen : Slots := ⟨.recessive, .dominant, .recessive⟩
/-- STEP alone. -/
def stepSeen : Slots := ⟨.recessive, .recessive, .dominant⟩
/-- No slot. -/
def noneSeen : Slots := ⟨.recessive, .recessive, .recessive⟩

/-! WellFormed: each check refuses an ill-formed command, and lets the boundary value pass. -/

/-- A presence roll or transfer roll has 10 bytes of ten cells (Table 4-2), cells 0 to 99. -/
theorem test_wellFormed_collision :
    (Instr.collision 100).wellFormed = false ∧ (Instr.collision 99).wellFormed = true := by decide

/-- A RAISE frame has 50 byte cells (Table 4-2). -/
theorem test_wellFormed_frameChecked :
    (Instr.frameChecked (List.replicate 49 .dominant)).wellFormed = false
    ∧ (Instr.frameChecked (List.replicate 50 .dominant)).wellFormed = true := by decide +kernel

/-- STATUS takes no operand and code 0 is undefined, so neither can be truncated after its code; LIST can (R180). -/
theorem test_wellFormed_truncatedSelection :
    (Instr.truncatedSelection (some 0x01)).wellFormed = false ∧ (Instr.truncatedSelection (some 0x00)).wellFormed = false
    ∧ (Instr.truncatedSelection (some 0x03)).wellFormed = true ∧ (Instr.truncatedSelection none).wellFormed = true := by
  decide

/-- 0x1F is RESTART, 0x14 is no request (Table 12-4). -/
theorem test_wellFormed_unknownRequest :
    (Instr.unknownRequest 0x1F).wellFormed = false ∧ (Instr.unknownRequest 0x14).wellFormed = true := by decide

/-! Formats: the worked values of 12. -/

/-- R193: over the nine bytes 0x31 to 0x39 the check is 0x29B1. -/
theorem test_check_value : checkOf [0x31, 0x32, 0x33, 0x34, 0x35, 0x36, 0x37, 0x38, 0x39] = 0x29B1 := by decide +kernel

/-- R14: the digest of an empty list is 0xFFFF. -/
theorem test_digest_of_empty_list : listDigestOf [] = 0xFFFF := by decide

/-- 12, Worked Example: record word 0x158A of 05.3 ALERT with the mark in group 2. -/
theorem test_record_word :
    recordWord { id := 43, state := .alert, group := 2, firstOut := true, silenced := false } = 0x158A := by decide

/-- 12, Worked Example: the bytes that the check covers, and 5 bytes of ten cells. -/
theorem test_raise_frame_bytes :
    coveredBytes raise53 = [0x05, 0x90, 0x13] ∧ (frameCells raise53).length = 50 := by decide +kernel

/-- 04, Worked Sequence: precedence values 2, 5 and 116. -/
theorem test_precedence_values :
    precedenceByte 0 2 = 2 ∧ precedenceByte 0 5 = 5 ∧ precedenceByte 3 20 = 116 := by decide

/-- R43: sub-kind 2 and reason 5 are undefined, and a transfer roll without a record must be marked last. -/
theorem test_undefined_content_is_refused :
    bodyOf 6 [2, 0, 0, 0, 0, 0] = none ∧ bodyOf 7 [5, 0, 0] = none ∧ bodyOf 6 [1, 0, 0, 0, 0, 0] = none := by
  decide +kernel

/-- Table 12-4: what the bytes of a selection spell. -/
theorem test_selection_commands :
    selectionCommand true [0x03, 0x01, 0x05] = .list 0x0105 ∧ selectionCommand true [0x03, 0x01] = .truncatedSelection (some 3)
    ∧ selectionCommand true [0x12, 0xAA] = .burn true ∧ selectionCommand true [0x0A] = .unknownRequest 0x0A
    ∧ selectionCommand true [] = .truncatedSelection none := by decide

/-- R178: SETTINGS (0x09) of cell 0x18, most significant bit first, with three bits of an unfinished byte behind it. -/
theorem test_selection_bits :
    selectionOfBits false
        ([false, false, false, false, true, false, false, true] ++ [false, false, false, true, true, false, false, false]
          ++ [true, false, true])
      = .settings 0x18 := by decide +kernel

/-- The table gives no row any bits. -/
theorem test_table_words_spell_nothing (nbits w : Nat) : decodeTableWord nbits w = none := rfl

/-! The worked sequences of 01 and 02. -/

/-- Accepts one bulletin on a list, with group 2 under LOCKIN, RINGBACK and FIRSTOUT. -/
def accepting (sender : StationNo) (b : Bulletin) (rs : List Record) : List Record :=
  (alarmSequence (stationIn 5 .active).options 7 false { body := b, sender := sender, count := 0 } rs).2

/-- Table 2-12, steps 1 to 5: [05.3 SETTLED*, 05.6 HELD]. -/
theorem test_one_point_to_step_5 :
    (accepting 5 (.ack 0x04) <| accepting 5 (.raise 6 2) <| accepting 5 (.ret 3 2) <|
        accepting 20 (.silence 0x0F) <| accepting 5 (.raise 3 2) [])
      = [{ rec_ 43 .settled 2 with firstOut := true }, rec_ 46 .held 2] := by decide +kernel

/-- Table 2-12, steps 6 to 8: [05.6 SETTLED, 05.3 ALERT]. -/
theorem test_one_point_to_step_8 :
    (accepting 5 (.ret 6 2) <| accepting 5 (.raise 3 2) <|
        accepting 20 (.clear 0x0F) [{ rec_ 43 .settled 2 with firstOut := true }, rec_ 46 .held 2])
      = [rec_ 46 .settled 2, rec_ 43 .alert 2] := by decide +kernel

/-- Table 1-6: the first CLEAR moves the cursor back to 03.1 (point 25), the second to before the head. -/
theorem test_cursor_moves_back :
    repairCursor [rec_ 25 .held 1, rec_ 42 .settled 2, rec_ 28 .alert 1] [rec_ 25 .held 1, rec_ 28 .alert 1] (some 42)
      = some 25
    ∧ repairCursor [rec_ 25 .settled 1, rec_ 28 .alert 1] [rec_ 28 .alert 1] (some 25) = none := by decide

/-! One step of each command. -/

/-- R175, R164: supply at a part as delivered leads to the reset state. -/
theorem test_powerOn_and_resetEnd :
    after .resetEnd (after .powerOn { State.reset with power := .off }) = State.reset := by decide +kernel

/-- R164: cells 0 (station 5, rate 2: 69), 24 (check) and 25 (commissioned) pass, and the station is in START. -/
theorem test_resetEnd_commissioned :
    let cells := ((Vector.replicate 26 (0 : Byte)).set 0 69).set 24 69
    (after .resetEnd { State.reset with power := .inReset .pin, store := cells.set 25 1 }).station = .start
    ∧ (after .resetEnd { State.reset with power := .inReset .pin, store := (cells.set 25 1).set 24 68 }).station
      = .uncommissioned .check := by decide +kernel

/-- R172: nothing but the store outlives the supply. -/
theorem test_supplyLost :
    let t := after .supplyLost (hearing 5 .active raise53 none)
    t.power = .off ∧ t.lineCount = 0 ∧ t.line.frame = none := by decide +kernel

/-- R175: a pin reset keeps the counters and ends the present frame. -/
theorem test_pinReset :
    let s := { hearing 5 .active raise53 none with port := { State.reset.port with counters := { Counters.zero with mutes := 3 } } }
    (after .pinReset s).power = .inReset .pin ∧ (after .pinReset s).port.counters.mutes = 3 := by decide +kernel

/-- R176, R177: START, LISTEN, JOINING. -/
theorem test_startHoldEnd_and_listenEnd :
    (after .startHoldEnd (stationIn 5 .start)).station = .listen 0
    ∧ (after .listenEnd (stationIn 5 (.listen 3))).station = .joining .asking
    ∧ (after .listenEnd (stationIn 5 (.listen 3))).outbox.entries = [pendingEntry (.join .start)]
    ∧ (after .listenEnd (stationIn 5 (.listen 2))).station = .listen 2 := by decide +kernel

/-- R136 with debounce count 2: an active-high input read high once lengthens the run, twice completes it. -/
theorem test_sampleTick :
    let once := after (.sampleTick 0x08 0xF) (stationIn 5 .active)
    (once.points[3]).run = 1 ∧ (once.points[2]).run = 0 ∧ (once.points[3]).due = false
    ∧ ((after (.sampleTick 0x08 0xF) once).points[3]).due = true := by decide +kernel

/-- R173: a sample tick is a base tick and follows one that is none, so from the reset of the timebase it is the second. -/
theorem test_sampleTick_is_a_base_tick :
    let once := after (.sampleTick 0 0xF) (stationIn 5 .active)
    once.timebase.flashTicks = 2 ∧ once.timebase.rollTicks = 2 ∧ once.timebase.holdTicks = 0
    ∧ (after (.sampleTick 0 0xF) { stationIn 5 .start with timebase := { Timebase.reset with sampleNext := true } }).timebase.holdTicks
      = 1 := by decide +kernel

/-- R137, R138: toward ABNORMAL the caught latch is set and a RAISE offered. -/
theorem test_debouncedTransition :
    let s := { stationIn 5 .active with points := Vector.replicate 8 { Point.reset with due := true } }
    let t := after (.debouncedTransition 3) s
    (t.points[3]).abnormal = true ∧ (t.points[3]).caught = true ∧ t.outbox.entries = [pendingEntry (.raise 3)] := by
  decide +kernel

/-- R151: a press offers its action while ACTIVE and is discarded in MUTED. -/
theorem test_buttonDebouncedChange :
    let due : Buttons := { Buttons.reset with silence := { ButtonEntry.reset with due := true } }
    (after (.buttonDebouncedChange .silence) { stationIn 5 .active with buttons := due }).outbox.entries
      = [pendingEntry .silence]
    ∧ (after (.buttonDebouncedChange .silence) { stationIn 5 (.muted 0 false) with buttons := due }).outbox.entries
      = [] := by decide +kernel

/-- R155: from 7 back to 0. -/
theorem test_flashPhaseAdvance :
    (after .flashPhaseAdvance { State.reset with timebase := { Timebase.reset with flashPhase := 7 } }).timebase.flashPhase
      = 0 := by decide +kernel

/-- R127, R128: at the eighth boundary a LOSS becomes due and is offered. -/
theorem test_rollIntervalBoundary_and_silenceLimit :
    let s := after .rollIntervalBoundary (withPeer (stationIn 5 .active) 9 ⟨.active, 7, false⟩)
    (s.presence.peers[9]).silence = 8
    ∧ (after (.silenceLimit 9) s).outbox.entries = [pendingEntry (.loss 9)] := by decide +kernel

/-- R129: two boundaries without an own bulletin. -/
theorem test_quietCounterLimit :
    let s := after .rollIntervalBoundary { stationIn 5 .active with presence := { Presence.reset with quiet := 1 } }
    s.presence.quiet = 2 ∧ (after .quietCounterLimit s).outbox.entries = [pendingEntry .presenceRoll] := by
  decide +kernel

/-- R116: the count is kept, and the JOIN carries RETRY. -/
theorem test_transferTimeout :
    let t := after .transferTimeout { stationIn 5 (.joining (.filling 4)) with lineCount := 9 }
    t.lineCount = 9 ∧ t.station = .joining .asking ∧ t.outbox.entries = [pendingEntry (.join .retry)] := by
  decide +kernel

/-- R117: the boundary first, then the roll's outcome: the transfer times out and the roll is not taken; the roll first, then
the boundary: the timer stands at 1. -/
theorem test_boundary_and_roll_fall_together :
    let r : Roll := { target := 9, last := false, overflow := false, predecessor := none, record := some (rec_ 43 .alert 2) }
    let s := hearing 9 (.joining (.filling 3)) { body := .transferRoll r, sender := 5, count := 144 } none
    let t := after (.receivedFrameOutcome agreeSeen) (after .rollIntervalBoundary s)
    let u := after .rollIntervalBoundary (after (.receivedFrameOutcome agreeSeen) s)
    t.station = .joining .asking ∧ t.annList.records = [] ∧ t.outbox.entries = [pendingEntry (.join .retry)]
    ∧ u.station = .joining (.filling 1) ∧ u.annList.records = [rec_ 43 .alert 2] := by decide +kernel

/-- R82: strikes are forgiven at the exit from MUTED. -/
theorem test_mutedTimerExpiry :
    let s := { stationIn 5 (.muted 64 true) with line := { Line.reset with strikes := 16 } }
    (after .mutedTimerExpiry s).line.strikes = 0 ∧ (after .mutedTimerExpiry s).station = .joining .asking := by
  decide +kernel

/-- R64, R65: 24 recessive cells frame the station; a framed one follows from 11, an unframed one from 12. -/
theorem test_gapFramed_and_anothersStart :
    (after .gapFramed (stationIn 5 (.listen 0))).line.framed = true
    ∧ (after (.anothersStart 12) (stationIn 5 (.listen 0))).line.frame.isSome = true
    ∧ (after (.anothersStart 11) (stationIn 5 (.listen 0))).line.frame = none
    ∧ (after (.dominantCellNotAStart 11) (stationIn 5 (.listen 0))).line.held = 1 := by decide +kernel

/-- R47, R54: RAISE goes before ACK, and carries the count of the start. -/
theorem test_ownStart :
    let t := after (.ownStart 24) { waitingWith 5 [.ack, .raise 3] with lineCount := 144 }
    t.line.sending = some raise53 ∧ t.outbox.inFlight = [⟨.raise 3, true⟩] := by decide +kernel

/-- Table 4-5: station 20's ACK (0111 0100) loses to 0000 0010 at bit 6 and cannot lose at bit 7. -/
theorem test_arbitrationLost :
    let f : Frame := { body := .ack 0x0F, sender := 20, count := 143 }
    (after (.arbitrationLost 1) (starting f)).outbox.entries = [pendingEntry .ack]
    ∧ (after (.arbitrationLost 0) (starting f)).outbox.entries = [⟨.ack, true⟩] := by decide +kernel

/-- R68: a collision in the count byte leaves the station to drive VETO; reading dominant where the precedence byte sends
recessive is none. -/
theorem test_collision :
    (after (.collision 10) (starting raise53)).line.frame.map InFrame.drive = some (some .veto)
    ∧ (after (.collision 6) (starting raise53)).line.frame.map InFrame.drive = some none := by decide +kernel

/-- A transfer roll for station 9 as last and empty. -/
def lastRoll : Roll := { target := 9, last := true, overflow := false, predecessor := some 46, record := none }

/-- The own roll of 10 bytes, met by a collision, that reads on the line as a JOIN of 7 bytes. -/
def rollReadAsJoin (cell : Nat) : State :=
  { following (stationIn 5 .active) .receiver .unchecked none with
    line := { Line.reset with
      frame := some
        { cell, role := .collided { body := .transferRoll lastRoll, sender := 5, count := 144 }, heard := .unchecked
          drive := some .veto } } }

/-- R68, R71, R188: at the JOIN's check, cell 70, the roll's own VETO cell, 100, has not come: no VETO is counted there, and
none where the line is held before it; one is at the end of the frame. -/
theorem test_collided_sender_counts_the_veto_it_drives :
    let t := after (.frameChecked (frameCells join9)) (rollReadAsJoin 20)
    t.port.counters.goodFrames = 1 ∧ t.port.counters.vetosDriven = 0
    ∧ (after .lineHeld t).port.counters.vetosDriven = 0
    ∧ (after (.ownFrameOutcome vetoSeen) t).port.counters.vetosDriven = 1
    ∧ (after (.ownFrameOutcome vetoSeen) t).port.counters.ownVoided = 1 := by decide +kernel

/-- R71: the frame is abandoned and counted; the line's end of being held leaves gap count 0. -/
theorem test_lineHeld :
    let t := after .lineHeld (starting raise53)
    t.line.frame = none ∧ t.port.counters.lineHeld = 1 ∧ t.outbox.entries = [pendingEntry (.raise 3)]
    ∧ (after .lineHeldEnd t).line.held = 0 := by decide +kernel

/-- R70, R86, R87: an in-step RAISE is a good frame and draws AGREE; with one check cell wrong it draws VETO. -/
theorem test_frameChecked :
    let s := following (stationIn 20 .active) .receiver .unchecked none
    let t := after (.frameChecked (frameCells raise53)) s
    let u := after (.frameChecked ((frameCells raise53).set 48 (if (frameCells raise53)[48]? = some .dominant then .recessive else .dominant))) s
    t.line.frame.map InFrame.drive = some (some .agree) ∧ t.port.counters.goodFrames = 1
    ∧ u.line.frame.map InFrame.drive = some (some .veto) ∧ u.port.counters.goodFrames = 0 := by decide +kernel

/-- Table 4-4: accepted, and void. -/
theorem test_ownFrameOutcome :
    let s := sending .active raise53
    (after (.ownFrameOutcome agreeSeen) s).lineCount = 145
    ∧ (after (.ownFrameOutcome agreeSeen) s).annList.records
      = [{ id := 43, state := .alert, group := 2, firstOut := true, silenced := false }]
    ∧ (after (.ownFrameOutcome vetoSeen) s).line.strikes = 1
    ∧ (after (.ownFrameOutcome vetoSeen) s).outbox.entries = [pendingEntry (.raise 3)] := by decide +kernel

/-- R90, R93: the receiver that agreed applies the RAISE, the one that stepped resyncs. -/
theorem test_receivedFrameOutcome :
    (after (.receivedFrameOutcome agreeSeen) (hearing 20 .active raise53 (some .agree))).lineCount = 145
    ∧ (after (.receivedFrameOutcome agreeSeen) (hearing 20 .active raise53 (some .step))).station = .joining .asking
    ∧ (after (.receivedFrameOutcome agreeSeen) (hearing 20 .active raise53 (some .step))).outbox.entries
      = [pendingEntry (.join .resync)] := by decide +kernel

/-- A session with a staged pair. -/
def staged : State :=
  { State.reset with session := { phase := .opened, staged := some (0, 0x45), lastBurn := .none }, pins := { Pins.unconnected with vpp := true } }

/-- R168 to R171: open, stage, burn, complete. -/
theorem test_programming :
    (after (.openSession true) State.reset).session.phase = .opened
    ∧ (after (.openSession false) State.reset).port.slot = [3, 0x10]
    ∧ (after (.stage 25 1) staged).session.staged = some (25, 1) ∧ (after (.stage 26 1) staged).port.slot = [6, 0x11]
    ∧ (after (.burn true) staged).session.phase = .burning ∧ (after .close staged).session.phase = .closed := by
  decide +kernel

/-- R170, R172: a burn ORs its value in; one that loses VPP leaves the cell. -/
theorem test_burnCompletion_and_vppLost :
    let s := after (.burn true) staged
    (after .burnCompletion s).store[0] = 0x45 ∧ (after .burnCompletion s).session.lastBurn = .done
    ∧ (after .vppLost s).store[0] = 0 ∧ (after .vppLost s).session.lastBurn = .failed := by decide +kernel

/-- Table 12-5: STATUS of the part as delivered: UNCOMMISSIONED, BLANK, POWER_ON, STATE_CHANGED. -/
theorem test_status : (after .status State.reset).port.slot = [0, 1, 1, 0, 1, 1, 0, 0, 0, 4, 0] := by decide +kernel

/-- R184: the latch byte as it stood, and the latch cleared. -/
theorem test_acknowledge :
    (after (.acknowledge 0x04) State.reset).port.slot = [0, 2, 4]
    ∧ (after (.acknowledge 0x04) State.reset).notifyLow = false := by decide +kernel

/-- R185: seven records give a page of six and more; from the sixth on one record follows. -/
theorem test_list :
    let s := { stationIn 5 .active with annList := { AnnList.reset with records := manyRecords 7 } }
    (after (.list 0xFFFF) s).port.slot.take 5 = [0, 3, 0, 6, 1]
    ∧ (after (.list 5) s).port.slot = [0, 3, 0, 1, 0, 0x03, 0x00] ∧ (after (.list 7) s).port.slot = [6, 3, 0] := by
  decide +kernel

/-- R186, R187: the own place holds 0x80 and the state; a part without settings shows zeros. -/
theorem test_presence_and_points :
    (after .presence (stationIn 5 .active)).port.slot[7]? = some 0x84
    ∧ (after .presence State.reset).port.slot = [0, 4] ++ List.replicate 32 0
    ∧ (after .points State.reset).port.slot = [0, 5] ++ List.replicate 16 0 := by decide +kernel

/-- R189: high byte first, in the order of Table 11-4. -/
theorem test_counters_and_clearCounters :
    let s := { State.reset with port := { State.reset.port with counters := { Counters.zero with goodFrames := 0x0102 } } }
    (after .counters s).port.slot.take 4 = [0, 6, 1, 2]
    ∧ (after .clearCounters s).port.counters.goodFrames = 0 := by decide +kernel

/-- R190: PRESS is REFUSED outside ACTIVE, RANGE for an undefined button. -/
theorem test_press :
    (after (.press 3) (stationIn 5 .active)).outbox.entries = [pendingEntry .clear]
    ∧ (after (.press 3) State.reset).port.slot = [3, 8] ∧ (after (.press 4) State.reset).port.slot = [6, 8] := by
  decide +kernel

/-- R191: cells 0 to 25. -/
theorem test_settings :
    (after (.settings 25) State.reset).port.slot = [0, 9, 0] ∧ (after (.settings 26) State.reset).port.slot = [6, 9] := by
  decide +kernel

/-- R178 to R180: UNKNOWN, TRUNCATED, and the slot shifted out from the falling edge. -/
theorem test_other_selections :
    (after (.unknownRequest 0x0A) State.reset).port.slot = [7, 0x0A]
    ∧ (after (.truncatedSelection none) State.reset).port.slot = [8, 0]
    ∧ (after (.truncatedSelection (some 3)) State.reset).port.slot = [8, 3]
    ∧ (after .selFallingEdge State.reset).port.shifted = [1, 0] := by decide +kernel

/-- R179: a falling edge after the end of a reset begins a served selection, though the one before it was not served. -/
theorem test_falling_edge_after_a_selection_not_served :
    let s := { stationIn 5 .active with port := { State.reset.port with selection := .unserved } }
    (after .selFallingEdge s).port.selection = .served
    ∧ (after .status (after .selFallingEdge s)).port.slot.take 3 = [0, 1, 4]
    ∧ (after .selFallingEdge { s with power := .inReset .pin }).port.selection = .unserved
    ∧ (after .status s).port.slot = [1, 0] := by decide +kernel

/-- R15: an accepted SILENCE that finds only silenced records is not reported; one that silences a record is. -/
theorem test_list_latch_needs_a_change :
    let s := hearing 5 .active { body := .silence 0xFF, sender := 9, count := 144 } (some .agree)
    let quiet := { s with port := { s.port with latches := Latches.clear } }
    let holding := fun r : Record => { quiet with annList := { quiet.annList with records := [r] } }
    let outcome := after (.receivedFrameOutcome ⟨.recessive, .dominant, .recessive⟩)
    (outcome (holding { rec_ 46 .alert 2 with silenced := true })).port.latches.listChanged = false
    ∧ (outcome (holding { rec_ 46 .alert 2 with silenced := false })).port.latches.listChanged = true := by
  decide +kernel

/-- R192: cause RESTART, and the NONE response. -/
theorem test_restart :
    (after .restart (stationIn 5 .active)).port.cause = .restart
    ∧ (after .restart (stationIn 5 .active)).port.slot = [1, 0] := by decide +kernel

/-- Log entry 2: an idle station passes one clock period. -/
theorem test_idle : step State.reset = .next { State.reset with timebase := { Timebase.reset with clock := 1 } } := rfl

/-! Witnesses: for each statement with premises, a concrete state and operands that meet them together, at the boundary
values where its clauses meet. -/

/-- An ACTIVE station with a frame on the line, its RETURN behind it, a group action, a walk and a record. -/
def busy : State :=
  { sending .active raise53 with
    annList := { records := [rec_ 46 .held 2], overflow := false, walks := [{ target := 9, cursor := some 46 }] }
    outbox := { Outbox.reset with
      entries := [⟨.raise 3, true⟩, ⟨.ret 3, false⟩, ⟨.ack, false⟩, ⟨.transferRoll 9, false⟩] } }

/-- A joiner in phase asking with its JOIN waiting. -/
def asking : State :=
  { stationIn 9 (.joining .asking) with outbox := { Outbox.reset with entries := [⟨.join .start, false⟩] } }

/-- StepKeepsTheListLaw: also at 64 records with the overflow indication. -/
theorem test_premises_StepKeepsTheListLaw :
    ListLaw busy.annList ∧ ListLaw { records := manyRecords 64, overflow := true, walks := [] }
    ∧ (∃ t, step busy = .next t) :=
  ⟨by unfold ListLaw; decide +kernel, by unfold ListLaw; decide +kernel, _, rfl⟩

theorem busy_flightLaw : FlightLaw busy :=
  ⟨⟨rfl, rfl⟩, (by decide +kernel : ∀ e ∈ busy.outbox.entries, e.subject.isJoin = false)⟩

theorem asking_flightLaw : FlightLaw asking := ⟨rfl, .start, false, rfl⟩

theorem busy_outboxLaw : OutboxLaw busy := by
  refine ⟨?_, ?_, by decide +kernel, by decide +kernel⟩
  · simp [busy, Outbox.waiting, Outbox.reset, Subject.clashes, Subject.peer]
  · intro older e newer h hf
    simp only [busy] at h
    rcases older with _ | ⟨a, older⟩
    · simp only [List.nil_append, List.cons.injEq] at h
      obtain ⟨rfl, rfl⟩ := h
      simp [Subject.clashes, Subject.peer, Subject.isGroupAction]
    · exfalso
      simp only [List.cons_append, List.cons.injEq] at h
      have hm : e ∈ older ++ e :: newer := by simp
      rw [← h.2] at hm
      simp at hm
      rcases hm with rfl | rfl | rfl <;> simp at hf

theorem asking_outboxLaw : OutboxLaw asking := by
  refine ⟨?_, ?_, by decide +kernel, by decide +kernel⟩
  · simp [asking, Outbox.waiting, Outbox.reset]
  · intro older e newer h hf
    have hm : e ∈ asking.outbox.entries := by rw [h]; simp
    simp [asking] at hm
    rw [hm] at hf
    simp at hf

/-- StepKeepsTheFlightLaw, StepKeepsTheOutboxLaw, OutboxHoldsAtMost52Entries: while ACTIVE, with two entries of one point,
and while asking, with a JOIN. -/
theorem test_premises_FlightAndOutboxLaws :
    FlightLaw busy ∧ OutboxLaw busy ∧ (∃ t, step busy = .next t)
    ∧ busy.outbox.ofPoint 3 = [⟨.raise 3, true⟩, ⟨.ret 3, false⟩]
    ∧ FlightLaw asking ∧ OutboxLaw asking ∧ (∃ t, step asking = .next t)
    ∧ (⟨.join .start, false⟩ : Entry) ∈ asking.outbox.entries :=
  ⟨busy_flightLaw, busy_outboxLaw, ⟨_, rfl⟩, by decide +kernel, asking_flightLaw, asking_outboxLaw, ⟨_, rfl⟩,
    by decide +kernel⟩

/-- StepKeepsTheStrikeLaw: at 15 strikes while ACTIVE and at 16 in MUTED. -/
theorem test_premises_StepKeepsTheStrikeLaw :
    FlightLaw busy ∧ StrikeLaw { busy with line := { busy.line with strikes := 15 } }
    ∧ StrikeLaw { stationIn 5 (.muted 64 true) with line := { Line.reset with strikes := 16 } }
    ∧ FlightLaw (stationIn 5 (.muted 64 true)) :=
  ⟨busy_flightLaw, (by decide : 15 ≤ 15), rfl, rfl, rfl⟩

/-- StepKeepsThePresenceLaw: a peer at silence counter 8. -/
theorem test_premises_StepKeepsThePresenceLaw :
    PresenceLaw { withPeer busy 9 ⟨.active, 8, true⟩ with
      presence := { (withPeer busy 9 ⟨.active, 8, true⟩).presence with quiet := 2 } } := by
  unfold PresenceLaw; decide +kernel

/-- StepKeepsTheRangeLaw: at the upper ends. -/
theorem test_premises_StepKeepsTheRangeLaw :
    let s := { stationIn 5 (.muted 64 false) with
      line := { Line.reset with gap := 24, held := 12, strikes := 16 }
      points := Vector.replicate 8 { Point.reset with run := 7 } }
    RangeLaw s ∧ ∃ t, step s = .next t :=
  ⟨⟨by decide, by decide, by decide +kernel, by intro b; cases b <;> decide, (by decide : 64 ≤ 64)⟩, _, rfl⟩

/-- A burn of the value 1 into the last cell, which commissions the store. -/
def burning : State :=
  { State.reset with session := { phase := .burning, staged := some (25, 1), lastBurn := .none } }

/-- StepKeepsTheSessionLaw and StoreOnlyGainsBitsAndIsFrozenOnceCommissioned: in a burn, and on a commissioned store. -/
theorem test_premises_StepKeepsTheSessionLaw :
    SessionLaw burning ∧ (∃ t, step { burning with pending := [.burnCompletion] } = .next t)
    ∧ isCommissioned (after .burnCompletion burning).store = true ∧ SessionLaw (after .burnCompletion burning)
    ∧ ((after .burnCompletion burning).store[25]).getLsbD 0 = true :=
  ⟨⟨fun _ => ⟨by decide +kernel, .blank, rfl⟩, fun _ => rfl⟩, ⟨_, rfl⟩, by decide +kernel,
    ⟨fun h => absurd (by decide +kernel) h, fun h => absurd h (by decide +kernel)⟩, by decide +kernel⟩

/-- StepKeepsTheSilentLaw: UNCOMMISSIONED, START and in service. -/
theorem test_premises_StepKeepsTheSilentLaw :
    SilentLaw State.reset ∧ SilentLaw (stationIn 5 .start) ∧ SilentLaw busy :=
  ⟨⟨fun _ => by decide +kernel, fun _ => ⟨fun _ => ⟨.blank, rfl⟩, fun _ => rfl⟩⟩,
    ⟨fun _ => by decide +kernel, fun _ => ⟨fun h => by simp [stationIn] at h, fun h => by simp [stationIn] at h⟩⟩,
    ⟨fun h => absurd h (by decide), fun _ => ⟨fun h => by simp [busy, sending, following, stationIn] at h,
      fun h => by simp [busy, sending, following, stationIn] at h⟩⟩⟩

/-- SettingsUncommissionedAndDiscordEndOnlyAtAReset, ListAndLineCountMoveOnlyAtOutcomesAndResets,
EveryChangeSetsItsNotifyLatch, CountersRiseByOneAndSaturate: a held line in DISCORD with its counter at 65535, and
STATUS in UNCOMMISSIONED; a frame under way that is no LOSS naming the station. -/
theorem test_premises_commands_that_are_no_reset :
    (∀ c ∈ [Instr.lineHeld, Instr.status],
      c ∉ [Instr.powerOn, .supplyLost, .pinReset, .resetEnd, .restart]
      ∧ c ∉ [Instr.listenEnd, .transferTimeout, .mutedTimerExpiry, .powerOn, .supplyLost, .pinReset, .resetEnd, .restart]
      ∧ c ≠ .clearCounters)
    ∧ ((stationIn 5 .discord).station.timerOver = false ∧ ∀ cells, Instr.lineHeld ≠ .frameChecked cells)
    ∧ (∀ slots, Instr.lineHeld ≠ .ownFrameOutcome slots ∧ Instr.lineHeld ≠ .receivedFrameOutcome slots)
    ∧ (∀ mask, Instr.lineHeld ≠ .acknowledge mask)
    ∧ (let s := { stationIn 5 .discord with port := { State.reset.port with counters := { Counters.zero with lineHeld := 65535 } } }
      FlightLaw s ∧ s.port.latches.stateChanged = true ∧ (∃ t, exec .lineHeld s = .next t)
      ∧ ((s.port.counters.toList.getD 5 0).toNat = 65535))
    ∧ (FlightLaw State.reset ∧ ∃ t, exec .status State.reset = .next t)
    ∧ (∀ x f, busy.line.frame = some x →
        (x.role = .transmitter f ∨ x.role = .collided f ∨ x.heard = .wellFormed f) → f.body ≠ .loss busy.own)
    ∧ busy.station.timerOver = false ∧ FlightLaw busy
    ∧ (after (.ownFrameOutcome ⟨.recessive, .dominant, .recessive⟩) busy).port.latches.listChanged = true :=
  ⟨by decide, ⟨rfl, by simp⟩, by simp, by simp, ⟨⟨rfl, rfl⟩, rfl, ⟨_, rfl⟩, by decide +kernel⟩, ⟨⟨rfl, rfl⟩, _, rfl⟩,
    by
      intro x f hx hf
      obtain rfl : _ = x := Option.some.inj hx
      rcases hf with hf | hf | hf
      · obtain rfl : raise53 = f := by simpa [sending, following] using hf
        simp [raise53]
      · exact absurd hf (by simp)
      · exact absurd hf (by simp),
    rfl, ⟨⟨rfl, rfl⟩, show ∀ e ∈ busy.outbox.entries, e.subject.isJoin = false by decide⟩, by decide +kernel⟩

/-- A transfer roll for station 9 with a record, more to come. -/
def firstRoll : Roll := { target := 9, last := false, overflow := true, predecessor := none, record := some (rec_ 287 .settled 7) }

/-- A frame from station 5 at count 144. -/
def frame5 (b : Bulletin) : Frame := { body := b, sender := 5, count := 144 }

/-- SentCellsReadBackAsTheSameFrame: at a roll without a record and at one with the highest point; and it holds there. -/
theorem test_premises_SentCellsReadBackAsTheSameFrame :
    (frame5 (.transferRoll lastRoll)).wellFormed ∧ (frame5 (.transferRoll firstRoll)).wellFormed ∧ raise53.wellFormed
    ∧ readFrame (frameCells (frame5 (.transferRoll firstRoll))) = some (frame5 (.transferRoll firstRoll)) :=
  ⟨.inr rfl, .inl rfl, trivial, by decide +kernel⟩

/-- RaiseAddsReAlarmsOrIsRefused, LossRaisesAndJoinReturnsTheLossPoint: 63 and 64 records without the point, and a list
with it. -/
theorem test_premises_RaiseAndLoss :
    ((manyRecords 63).map Record.id).Nodup ∧ (manyRecords 63).length < 64
    ∧ ((manyRecords 64).map Record.id).Nodup ∧ 64 ≤ (manyRecords 64).length
    ∧ findRecord (manyRecords 63) (fieldPoint 31 3) = none ∧ findRecord (manyRecords 64) (fieldPoint 31 3) = none
    ∧ findRecord (manyRecords 63) (lossPoint 0) = none ∧ findRecord (manyRecords 64) (lossPoint 31) = none
    ∧ (let rs := [rec_ 46 .held 2, rec_ 43 .lapsed 2, rec_ 256 .settled 7]
      (rs.map Record.id).Nodup ∧ rs = [rec_ 46 .held 2] ++ rec_ 43 .lapsed 2 :: [rec_ 256 .settled 7]
      ∧ (rec_ 43 .lapsed 2).id = fieldPoint raise53.sender 3 ∧ findRecord rs (lossPoint 0) ≠ none)
    ∧ raise53.body = .raise 3 2 ∧ (frame5 (.loss 0)).body = .loss 0 ∧ join9.body = .join .start 0x1234
    ∧ (frame5 (.transferRoll lastRoll)).body = .transferRoll lastRoll := by decide +kernel

/-- ReturnAndGroupActionsActRecordByRecord. -/
theorem test_premises_ReturnAndGroupActions :
    (frame5 (.ret 3 2)).body = .ret 3 2 ∧ (frame5 (.ack 0x04)).body = .ack 0x04
    ∧ (frame5 (.silence 0xFF)).body = .silence 0xFF ∧ (frame5 (.clear 0)).body = .clear 0 := by decide

/-- AlarmSequenceKeepsTheOptionLaw, AlarmSequenceKeepsTheFirstOutLaw: a LAPSED, marked record in a LOCKIN, FIRSTOUT group
and an unmarked one behind it. -/
theorem test_premises_OptionAndFirstOutLaw :
    let rs := [{ rec_ 43 .lapsed 2 with firstOut := true }, rec_ 46 .settled 2]
    OptionLaw (stationIn 5 .active).options rs ∧ FirstOutLaw (stationIn 5 .active).options rs := by
  refine ⟨by unfold OptionLaw; decide +kernel, ?_⟩
  intro older r newer h hf
  rcases older with _ | ⟨a, _ | ⟨b, older⟩⟩
  · simp only [List.nil_append, List.cons.injEq] at h
    exact ⟨by rw [← h.1]; decide +kernel, by simp⟩
  · simp only [List.cons_append, List.nil_append, List.cons.injEq] at h
    rw [← h.2.1] at hf
    exact absurd hf (by decide)
  · simp at h

/-- CursorMovesBackToTheNearestRemainingRecord: the cursor's record stays, goes with an older one left, goes with none. -/
theorem test_premises_CursorMovesBack :
    let before := [rec_ 25 .held 1, rec_ 42 .settled 2, rec_ 28 .alert 1]
    (before.map Record.id).Nodup ∧ holds before 42 = true ∧ holds [rec_ 42 .settled 2] 42 = true
    ∧ holds [rec_ 28 .alert 1] 42 = false
    ∧ repairCursor before [rec_ 25 .held 1] (some 42) = some 25 ∧ repairCursor before [rec_ 28 .alert 1] (some 42) = none := by
  decide

/-- TransferRollCarriesTheSuccessorOfTheCursor, TakingARollKeepsTheJoinerEqualToWhatWasSent,
BulletinsWhileFillingKeepTheJoinerEqualToWhatWasSent: a full list, the cursor before the head, inside and at the tail. -/
theorem test_premises_Walks :
    let rs := [rec_ 25 .held 1, rec_ 42 .settled 2]
    (rs.map Record.id).Nodup ∧ rs = [] ++ rec_ 25 .held 1 :: rec_ 42 .settled 2 :: []
    ∧ rs = [rec_ 25 .held 1] ++ [rec_ 42 .settled 2]
    ∧ CursorLaw rs none ∧ CursorLaw rs (some 25) ∧ CursorLaw rs (some 42) ∧ (rollOf 9 false rs (some 42)).last = true
    ∧ ((manyRecords 64).map Record.id).Nodup ∧ (manyRecords 64).length ≤ 64 ∧ CursorLaw (manyRecords 64) (some 63) :=
  ⟨by decide, rfl, rfl, fun c h => by simp at h, fun c h => by cases h; decide, fun c h => by cases h; decide, by decide,
    by decide +kernel, by decide +kernel, fun c h => by cases h; decide +kernel⟩

/-- TransferRollRecordIsReplacedInsertedOrAnError: held, at the head, after its predecessor, at a full list, after none. -/
theorem test_premises_TransferRollRecord :
    let rs := [rec_ 25 .held 1, rec_ 42 .settled 2]
    (rs.map Record.id).Nodup ∧ rs = [] ++ rec_ 25 .held 1 :: [rec_ 42 .settled 2] ∧ holds rs 28 = false ∧ rs.length < 64
    ∧ holds rs 29 = false ∧ ((manyRecords 64).map Record.id).Nodup ∧ holds (manyRecords 64) 64 = false
    ∧ holds (manyRecords 63) 63 = false ∧ (manyRecords 63).length < 64 ∧ 64 ≤ (manyRecords 64).length := by
  decide +kernel

/-- StartTakesTheOldestEligibleEntryOfTheLowestCode: some entry, and none eligible. -/
theorem test_premises_StartTakes :
    (waitingWith 5 [.ack, .raise 3]).outbox.choice = some (.raise 3)
    ∧ Outbox.choice { entries := [⟨.raise 3, true⟩, ⟨.ret 3, false⟩], owed := Vector.replicate 8 false } = none := by
  decide +kernel

/-- An outbox with these entries. -/
def outboxOf (es : List Entry) : Outbox := { entries := es, owed := Vector.replicate 8 false }

/-- TransitionOfferActsOnTheNewestEntry: its four rows. -/
theorem test_premises_TransitionOffer :
    PointKind.raise ≠ .ret ∧ (outboxOf [⟨.ack, false⟩]).ofPoint 3 = []
    ∧ (outboxOf [⟨.ret 3, true⟩, ⟨.raise 3, false⟩]).ofPoint 3 = [⟨.ret 3, true⟩] ++ [⟨PointKind.raise.subject 3, false⟩]
    ∧ (outboxOf [⟨.raise 3, true⟩]).ofPoint 3 = [] ++ [⟨PointKind.raise.subject 3, true⟩]
    ∧ (outboxOf [⟨.ret 3, true⟩]).ofPoint 3 = [] ++ [⟨PointKind.ret.subject 3, true⟩]
    ∧ (outboxOf [⟨.raise 3, true⟩, ⟨.ret 3, false⟩]).ofPoint 3 = [⟨.raise 3, true⟩] ++ [⟨PointKind.ret.subject 3, false⟩] := by
  decide +kernel

/-- PulseOfferFoldsIntoThePointsEntries: the flag set, and each row with it clear. -/
theorem test_premises_PulseOffer :
    ((outboxOf []).setOwed 3 true).owed[3] = true ∧ (outboxOf []).owed[3] = false ∧ (outboxOf []).ofPoint 3 = []
    ∧ (∀ b, (outboxOf [⟨.raise 3, b⟩]).ofPoint 3 = [⟨.raise 3, b⟩])
    ∧ (outboxOf [⟨.ret 3, false⟩]).ofPoint 3 = [⟨.ret 3, false⟩]
    ∧ (outboxOf [⟨.raise 3, true⟩, ⟨.ret 3, false⟩]).ofPoint 3 = [⟨.raise 3, true⟩, ⟨.ret 3, false⟩]
    ∧ (outboxOf [⟨.ret 3, false⟩, ⟨.raise 3, false⟩]).ofPoint 3 = [⟨.ret 3, false⟩, ⟨.raise 3, false⟩]
    ∧ (outboxOf [⟨.ret 3, true⟩]).ofPoint 3 = [⟨.ret 3, true⟩]
    ∧ (outboxOf [⟨.ret 3, true⟩, ⟨.raise 3, false⟩]).ofPoint 3 = [⟨.ret 3, true⟩, ⟨.raise 3, false⟩] := by
  decide +kernel

/-- ResetsAndSupplyLossTakeEveryBlockToItsResetValues, StartHoldListenAndMutedEndInTheirNextStates,
PanelFollowsTheListCoverageAndFlashPhase: running stations in the states named. -/
theorem test_premises_running_stations :
    busy.power = .running ∧ (stationIn 5 .start).power = .running ∧ (stationIn 5 .start).station = .start
    ∧ (stationIn 5 (.listen 3)).power = .running ∧ (stationIn 5 (.listen 3)).station = .listen 3
    ∧ (stationIn 5 (.muted 64 true)).power = .running ∧ (stationIn 5 (.muted 64 true)).station = .muted 64 true := by
  decide

/-- StartHoldListenAndMutedEndInTheirNextStates, TransferTimeoutAsksAgainWithReasonRetry: a frame that is checked and one that
ends with the end of each timer due. -/
theorem test_premises_TimerEndDue :
    ∀ c ∈ [(Instr.listenEnd, Station.listen 3), (.transferTimeout, .joining (.admitted 4)),
        (.transferTimeout, .joining (.filling 4)), (.mutedTimerExpiry, .muted 64 true)],
      (after c.1 (hearing 20 c.2 raise53 none)).station = .joining .asking
      ∧ (hearing 20 c.2 raise53 none).line.frame
        = some { cell := 50, role := .receiver, heard := .wellFormed raise53, drive := none }
      ∧ (hearing 20 c.2 raise53 none).line.held = 0 ∧ raise53.sender ≠ (hearing 20 c.2 raise53 none).own
      ∧ (following (stationIn 20 c.2) .receiver .unchecked none).line.frame
        = some { cell := 50, role := .receiver, heard := .unchecked, drive := none }
      ∧ (frameCells raise53).length = 10 * bytesRead (frameCells raise53)
      ∧ runReaches 0 (frameCells raise53) = false := by decide +kernel

/-- A store with these first two cells, its check and the commissioned bit. -/
def storeOf (c0 c1 check c25 : Byte) : Vector Byte 26 :=
  ((((Vector.replicate 26 0).set 0 c0).set 1 c1).set 24 check).set 25 c25

/-- EndOfAResetReadsTheStore: not commissioned, a wrong check, a stray bit in each of its cells, and a sound store with
the highest number; and a RESTART. -/
theorem test_premises_EndOfAReset :
    ({ State.reset with power := .inReset .pin }).power = .inReset .pin
    ∧ (storeOf 0 0 0 0)[25].getLsbD 0 = false
    ∧ [storeOf 69 0 68 1, storeOf 0x80 0 0x80 1, storeOf 0 32 32 1, storeOf 0 0 0 3, storeOf 0x7F 31 0x60 1].all
        (fun x => x[25].getLsbD 0) = true
    ∧ ((storeOf 69 0 68 1).toList.take 24).foldl (fun a b => a ^^^ b) 0 ≠ (storeOf 69 0 68 1)[24]
    ∧ [storeOf 0x80 0 0x80 1, storeOf 0 32 32 1, storeOf 0 0 0 3].all
        (fun x => decide ((x.toList.take 24).foldl (fun a b => a ^^^ b) 0 = x[24])
          && decide (x[0].getLsbD 7 = true ∨ 32 ≤ x[1].toNat ∨ 2 ≤ x[25].toNat)) = true
    ∧ ((storeOf 0x7F 31 0x60 1).toList.take 24).foldl (fun a b => a ^^^ b) 0 = (storeOf 0x7F 31 0x60 1)[24]
    ∧ ¬((storeOf 0x7F 31 0x60 1)[0].getLsbD 7 = true ∨ 32 ≤ (storeOf 0x7F 31 0x60 1)[1].toNat
        ∨ 2 ≤ (storeOf 0x7F 31 0x60 1)[25].toNat)
    ∧ busy.power = .running ∧ busy.port.selection ≠ .unserved ∧ busy.session.phase ≠ .burning :=
  ⟨rfl, by decide +kernel, by decide +kernel, by decide +kernel, by decide +kernel, by decide +kernel, by decide +kernel,
    rfl, by decide +kernel, by decide +kernel⟩

/-- StartHoldLasts16000PeriodsForEachNumber: station 5 as a reset has left it in START. -/
theorem test_premises_StartHoldLasts :
    let s := stationIn 5 .start
    s.power = .running ∧ s.station = .start ∧ s.pending = [] ∧ s.session.phase = .closed
    ∧ s.timebase = { clock := 0, sampleNext := false, flashTicks := 0, flashPhase := 0, rollTicks := 0, holdTicks := 0,
                     burnClocks := 0 } := by decide

/-- TransferTimeoutAsksAgainWithReasonRetry: in both phases. -/
theorem test_premises_TransferTimeout :
    ∀ phase ∈ [Phase.admitted 4, Phase.filling 4],
      let s := stationIn 5 (.joining phase)
      s.power = .running ∧ s.outbox.entries = [] ∧ (s.station = .joining (.admitted 4) ∨ s.station = .joining (.filling 4)) := by
  decide

/-- SampleTickRunsEveryPointAndButton: debounce count 2 with a run of 0 and of 1, the buttons' 8 with 6 and 7, and a due
entry; and a station out of service. -/
theorem test_premises_SampleTick :
    (stationIn 5 .active).power = .running ∧ (stationIn 5 .active).station.inService = true
    ∧ (stationIn 5 .start).station.inService = false
    ∧ (((stationIn 5 .active).inUse.points[(0 : LocalPoint)]).debounce.val + 1 = 2)
    ∧ (Point.reset.due = false ∧ true ≠ Point.reset.abnormal ∧ Point.reset.run + 1 < 2)
    ∧ (let e := { Point.reset with run := 1 }; e.due = false ∧ true ≠ e.abnormal ∧ 2 ≤ e.run + 1)
    ∧ (let e := { ButtonEntry.reset with run := 6 }; e.due = false ∧ true ≠ e.pressed ∧ e.run + 1 < 8)
    ∧ (let e := { ButtonEntry.reset with run := 7 }; e.due = false ∧ true ≠ e.pressed ∧ 8 ≤ e.run + 1) := by
  decide +kernel

/-- A station whose every point and button has its change due. -/
def allDue (s : State) (mode : PointMode) (abnormal : Bool) : State :=
  { s with
    settings := some { settingsFor 5 with points := Vector.replicate 8 { group := 2, mode, activeLow := false, debounce := 0 } }
    points := Vector.replicate 8 { Point.reset with due := true, abnormal }
    buttons := { Buttons.reset with ack := { ButtonEntry.reset with due := true }, test := { run := 0, pressed := true, due := true } } }

/-- DebouncedTransitionSetsTheLatchAndIsOffered: both modes and levels, a RETURN meeting a pending RAISE, and outside
ACTIVE. -/
theorem test_premises_DebouncedTransition :
    (∀ mode ∈ [PointMode.level, PointMode.pulse], ∀ abnormal : Bool,
      let s := allDue (stationIn 5 .active) mode abnormal
      s.inService = true ∧ (s.points[(3 : LocalPoint)]).due = true ∧ s.station = .active
      ∧ (s.inUse.points[(3 : LocalPoint)]).mode = mode ∧ (s.points[(3 : LocalPoint)]).abnormal = abnormal)
    ∧ (allDue (waitingWith 5 [.raise 3]) .level true).outbox.newest 3 = some ⟨.raise 3, false⟩
    ∧ (allDue (waitingWith 5 [.raise 3, .ret 3]) .level true).outbox.newest 3 ≠ some ⟨.raise 3, false⟩
    ∧ (allDue (stationIn 5 .discord) .level true).inService = true
    ∧ (allDue (stationIn 5 .discord) .level true).station ≠ .active := by decide +kernel

/-- ReconciliationRepublishesByTables83And84: ACTIVE with the point's record HELD, and with it LAPSED. -/
theorem test_premises_Reconciliation :
    (let s := { stationIn 5 .active with annList := { AnnList.reset with records := [rec_ 43 .held 2] } };
      s.station = .active ∧ (s.annList.records.map Record.id).Nodup
      ∧ ∃ r ∈ s.annList.records, r.id = fieldPoint s.own 3 ∧ (r.state = .alert ∨ r.state = .held))
    ∧ (let s := { stationIn 5 .active with
        annList := { AnnList.reset with records := [rec_ 43 .lapsed 2] }
        points := Vector.replicate 8 { Point.reset with caught := true } }
      ¬(∃ r ∈ s.annList.records, r.id = fieldPoint s.own 3 ∧ (r.state = .alert ∨ r.state = .held))
      ∧ (s.inUse.points[(3 : LocalPoint)]).mode = .level ∧ (s.points[(3 : LocalPoint)]).abnormal = false
      ∧ (s.points[(3 : LocalPoint)]).caught = true) := by decide +kernel

/-- PressOffersItsGroupActionWhileActiveAndCovering: a press, a release of TEST, and the button bytes 0, 1, 3 and 4. -/
theorem test_premises_Press :
    (let s := allDue (stationIn 5 .active) .level false;
      s.inService = true ∧ (s.buttons.get .ack).due = true ∧ (s.buttons.get .ack).pressed = false
      ∧ (s.buttons.get .test).due = true ∧ (s.buttons.get .test).pressed = true)
    ∧ busy.power = .running ∧ busy.port.selection ≠ .unserved ∧ busy.session.phase ≠ .burning
    ∧ (0 : Byte).toNat = 0 ∧ 3 < (4 : Byte).toNat ∧ 1 ≤ (1 : Byte).toNat ∧ (3 : Byte).toNat ≤ 3 := by decide +kernel

/-- PanelFollowsTheListCoverageAndFlashPhase: lamp values 287 and 288, with and without settings, TEST held and not. -/
theorem test_premises_Panel :
    (let c := { settingsFor 5 with windows := (Vector.replicate 8 287).set 1 288 };
      (c.windows[(0 : Lamp)]).toNat = (287 : PointId).val ∧ 287 < (c.windows[(1 : Lamp)]).toNat)
    ∧ (stationIn 5 .active).settings = some (settingsFor 5) ∧ State.reset.settings = none
    ∧ State.reset.buttons.test.pressed = false
    ∧ (allDue (stationIn 5 .active) .level false).buttons.test.pressed = true
    ∧ findRecord [rec_ 43 .settled 2] 43 = some (rec_ 43 .settled 2) ∧ findRecord [rec_ 43 .settled 2] 287 = none
    ∧ State.reset.power = .running := by
  decide +kernel

/-- BoundaryAdvancesTheCountersThatRun: every state in service. -/
theorem test_premises_Boundary :
    ∀ st ∈ [Station.listen 2, .joining .asking, .joining (.admitted 3), .joining (.filling 4), .active, .muted 63 true, .discord],
      (stationIn 5 st).inService = true ∧ (stationIn 5 st).station = st := by decide +kernel

/-- LimitsOfferALossAndAPresenceRoll: a peer and the quiet counter at their limits. -/
theorem test_premises_Limits :
    let s := { withPeer (stationIn 5 .active) 9 ⟨.joining, 8, true⟩ with
      presence := { (withPeer (stationIn 5 .active) 9 ⟨.joining, 8, true⟩).presence with quiet := 2, quietDue := true } }
    s.inService = true ∧ (9 : StationNo) ≠ s.own ∧ (s.presence.peers[(9 : StationNo)]).due = true
    ∧ (s.presence.peers[(9 : StationNo)]).silence = 8 ∧ (s.presence.peers[(9 : StationNo)]).state = .joining
    ∧ s.presence.quietDue = true ∧ s.presence.quiet = 2 := by decide +kernel

/-- A station outside a frame with this gap count and held run. -/
def outside (gap held : Nat) (framed : Bool) : State :=
  { stationIn 5 .active with line := { Line.reset with gap, held, framed } }

/-- CellsOutsideAFrameCountBeginAFrameOrEndTheHeldRun: an unframed station at 11 and 12, a framed one at 10 and 11, the
held run at 10, 11 and 12. Each start with no eligible entry. -/
theorem test_premises_CellsOutsideAFrame :
    (∀ s ∈ [outside 11 0 false, outside 12 0 false, outside 10 0 true, outside 11 0 true, outside 0 10 false, outside 0 11 true],
      s.inService = true ∧ s.line.frame = none ∧ s.line.held < 12 ∧ s.outbox.choice = none)
    ∧ (11 < 12 ∧ ¬((outside 11 0 false).line.framed = true ∨ min 24 (11 + 0) = 24))
    ∧ 12 ≤ min 24 ((outside 12 0 false).line.gap + 0)
    ∧ min 24 ((outside 10 0 true).line.gap + 0) < 11
    ∧ ((outside 11 0 true).line.framed = true ∧ 11 ≤ min 24 ((outside 11 0 true).line.gap + 0))
    ∧ (outside 0 10 false).line.held + 1 < 12 ∧ (outside 0 12 true).line.held = 12 ∧ (outside 0 12 true).inService = true := by
  decide +kernel

/-- OwnStartSendsTheChosenEntryAssembledNow: a framed station at 11 and an unframed one at 24. -/
theorem test_premises_OwnStart :
    ∀ line ∈ [{ Line.reset with framed := true }, Line.reset], ∀ n ∈ [11, 24], (line.framed = true ∨ n = 24) →
      let s := { waitingWith 5 [.transferRoll 9, .raise 3] with line }
      s.inService = true ∧ s.line.frame = none ∧ s.line.held < 12 ∧ 11 ≤ s.line.gap + n
      ∧ (s.line.framed = true ∨ 24 ≤ s.line.gap + n) ∧ s.outbox.choice = some (.raise 3) := by decide +kernel

/-- ArbitrationLossCollisionAndHeldLineEndTheTransmission: data cell 5 (bit 2) of station 5's precedence byte is sent
recessive, data cell 0 is not; the count byte's first cell; a held run of 11; the three kinds of entry in flight. -/
theorem test_premises_ArbitrationLoss :
    (starting raise53).inService = true
    ∧ (starting raise53).line.frame
      = some { cell := 0, role := .transmitter raise53, heard := .unchecked, drive := none }
    ∧ (BitVec.ofNat 8 (raise53.body.code * 32 + raise53.sender.val)).getLsbD (7 - (5 : Fin 8).val) = true
    ∧ (BitVec.ofNat 8 (raise53.body.code * 32 + raise53.sender.val)).getLsbD (8 - 1) = false
    ∧ 10 < 10 * frameLength raise53.body.code ∧ (outside 0 11 true).line.held < 12
    ∧ (outboxOf [⟨.raise 3, false⟩, ⟨.ack, true⟩, ⟨.ack, false⟩]).entries
      = [⟨.raise 3, false⟩] ++ ⟨.ack, true⟩ :: [⟨.ack, false⟩]
    ∧ ((outboxOf [⟨.ret 3, true⟩]).setOwed 3 true).entries = [] ++ ⟨.ret 3, true⟩ :: []
    ∧ ((outboxOf [⟨.ret 3, true⟩]).setOwed 3 true).owed[(3 : LocalPoint)] = true := by decide +kernel

/-- WellFormedFrameIsHeardAndJudged: a receiver and a collided sender, at the cell of its VETO; a sender whose own frame is
longer than the one read; in LISTEN with the own number. -/
theorem test_premises_WellFormedFrame :
    raise53.wellFormed
    ∧ (∀ role ∈ [Role.receiver, Role.collided raise53], ∀ st ∈ [Station.active, .listen 0, .joining .asking],
      let s := following (stationIn 20 st) role .unchecked none
      s.inService = true ∧ s.station.timerOver = false
      ∧ s.line.frame = some { cell := 50, role, heard := .unchecked, drive := none })
    ∧ (50 = 10 * frameLength raise53.body.code ∧ frameLength raise53.body.code < frameLength (frame5 (.transferRoll lastRoll)).body.code)
    ∧ raise53.sender = (following (stationIn 5 (.listen 0)) .receiver .unchecked none).own
    ∧ raise53.sender ≠ (following (stationIn 20 .active) .receiver .unchecked none).own :=
  ⟨trivial, by decide +kernel, by decide, by decide, by decide⟩

/-- FormatErrorDrawsVetoAndIsHeardFromNoOne: 50 cells whose check or content fails, in a driving and a silent state; at a
sender that met a collision, before its VETO cell and at it. -/
theorem test_premises_FormatError :
    let cells := List.flatten (List.replicate 5 (Level.dominant :: List.replicate 4 .dominant ++ List.replicate 5 .recessive))
    cells.length = 10 * bytesRead cells ∧ readFrame cells = none ∧ runReaches 0 cells = false
    ∧ (∀ st ∈ [Station.listen 0, .joining .asking, .active, .muted 0 false, .discord],
      ∀ role ∈ [Role.receiver, Role.collided raise53],
      let s := following (stationIn 20 st) role .unchecked none
      s.inService = true ∧ s.station.timerOver = false
      ∧ s.line.frame = some { cell := 50, role, heard := .unchecked, drive := none })
    ∧ (49 < 10 * frameLength raise53.body.code ∧ 10 * frameLength raise53.body.code ≤ max 49 cells.length) := by
  decide +kernel

/-- VerdictFollowsTable51: a JOIN; a peer SILENT and DISCORD; a presence roll and another kind from a peer in step. -/
theorem test_premises_Verdict :
    join9.body = .join .start 0x1234 ∧ (∀ r d, raise53.body ≠ .join r d) ∧ (∀ sd ld n, raise53.body ≠ .presenceRoll sd ld n)
    ∧ raise53.sender ≠ (stationIn 20 .active).own
    ∧ (withPeer (stationIn 20 .active) 5 ⟨.silent, 0, false⟩).peerState raise53.sender = .silent
    ∧ (withPeer (stationIn 20 .active) 5 ⟨.discord, 0, false⟩).peerState raise53.sender = .discord
    ∧ (stationIn 20 .active).peerState raise53.sender ≠ .silent ∧ (stationIn 20 .active).peerState raise53.sender ≠ .discord
    ∧ (frame5 (.presenceRoll 0x1234 0xFFFF 0)).body = .presenceRoll 0x1234 0xFFFF 0 :=
  ⟨rfl, by simp [raise53], by simp [raise53], by decide +kernel, by decide +kernel, by decide +kernel, by decide +kernel,
    by decide +kernel, rfl⟩

/-- A CLEAR of station 5 for group 2. -/
def clear5 : Frame := frame5 (.clear 0x04)

/-- The same station with a SETTLED record in group 2 and an ALERT loss record of station 9 in group 7. -/
def withRecord (s : State) : State :=
  { s with annList := { AnnList.reset with records := [rec_ 46 .settled 2, rec_ (lossPoint 9) .alert 7] } }

/-- The own frame's premise: sent to its end. -/
theorem sending_hasSent (st : Station) (f : Frame) (h : (sending st f).inService = true) : (sending st f).hasSent f :=
  ⟨h, 50, rfl⟩

/-- The receiver's premise: heard well-formed. -/
theorem hearing_hasHeard (n : StationNo) (st : Station) (f : Frame) (d : Option Slot)
    (h : (hearing n st f d).inService = true) (ht : st.timerOver = false := by rfl) : (hearing n st f d).hasHeard f d :=
  ⟨h, ht, rfl, 50, rfl⟩

/-- VoidedOwnFrameStrikesAndMutesAtSixteen: VETO seen; no slot seen with an ACTIVE peer; a collision before and after its
VETO cell; at 14 and 15 strikes. -/
theorem test_premises_VoidedOwnFrame :
    (sending .active raise53).hasSent raise53 ∧ vetoSeen.veto = .dominant
    ∧ (let s := withPeer (sending .active raise53) 9 ⟨.active, 0, false⟩
      s.hasSent raise53 ∧ (9 : StationNo) ≠ s.own ∧ s.peerState 9 = .active)
    ∧ (following (stationIn 5 .active) (.collided raise53) (.wellFormed raise53) (some .veto)).hasCollided raise53 false
    ∧ (rollReadAsJoin 99).hasCollided { body := .transferRoll lastRoll, sender := 5, count := 144 } true
    ∧ ∀ k ∈ [14, 15], ({ sending .active raise53 with line := { (sending .active raise53).line with strikes := k } }).hasSent raise53 :=
  ⟨sending_hasSent _ _ rfl, rfl, ⟨⟨rfl, 50, rfl⟩, by decide, by decide +kernel⟩,
    ⟨rfl, 50, .wellFormed raise53, rfl, by decide, .inr (.inr rfl)⟩, ⟨rfl, 99, .unchecked, rfl, by decide, .inl rfl⟩,
    fun _ _ => ⟨rfl, 50, rfl⟩⟩

/-- AcceptedOwnBulletinIsAppliedAndLeavesTheOutbox: AGREE seen, and lone; a RAISE at 63 and at 64 records, a LOSS, a last
roll and another; a CLEAR that removes; the entry in flight behind another, and a RETURN with its flag set. -/
theorem test_premises_AcceptedOwnBulletin :
    (∀ f ∈ [raise53, frame5 (.loss 9), frame5 (.transferRoll lastRoll), frame5 (.transferRoll firstRoll)],
      (sending .active f).inService = true ∧ (sending .active f).station = .active ∧ f.isJoin = false
      ∧ f.body ≠ .loss (sending .active f).own ∧ f.sender = (sending .active f).own
      ∧ ∀ n, n ≠ (sending .active f).own → (sending .active f).peerState n ≠ .active)
    ∧ (∀ f, (sending .active f).hasSent f) ∧ agreeSeen.agree = .dominant ∧ agreeSeen.veto = .recessive
    ∧ (let far : Frame := { raise53 with sender := 31 }
      (alarmSequence (stationIn 31 .active).options 7 false far (manyRecords 63)).1 = .published
      ∧ (alarmSequence (stationIn 31 .active).options 7 false far (manyRecords 64)).1 = .refused)
    ∧ (let s := withRecord (sending .active clear5)
      s.hasSent clear5 ∧ s.station = .active ∧ clear5.isJoin = false ∧ clear5.body ≠ .loss s.own
      ∧ (alarmSequence s.options s.inUse.lossGroup false clear5 s.annList.records).2.length < s.annList.records.length)
    ∧ (outboxOf [⟨.ack, false⟩, ⟨.raise 3, true⟩]).entries = [⟨.ack, false⟩] ++ ⟨.raise 3, true⟩ :: []
    ∧ ((outboxOf [⟨.ret 3, true⟩]).setOwed 3 true).entries = [] ++ ⟨.ret 3, true⟩ :: []
    ∧ ((outboxOf [⟨.ret 3, true⟩]).setOwed 3 true).owed[(3 : LocalPoint)] = true :=
  ⟨by decide +kernel, fun f => sending_hasSent _ _ rfl, rfl, rfl, by decide +kernel,
    ⟨⟨rfl, 50, rfl⟩, rfl, rfl, by decide, by decide +kernel⟩, rfl, rfl, by decide⟩

/-- OwnJoinFoundsIsAdmittedOrEndsInDiscord: a JOIN and another kind, with each slot pattern. -/
theorem test_premises_OwnJoin :
    (sending (.joining .asking) join9).hasSent join9 ∧ join9.isJoin = true
    ∧ (∀ n, n ≠ (sending (.joining .asking) join9).own → (sending (.joining .asking) join9).peerState n ≠ .active)
    ∧ (∀ p : LocalPoint, ((sending (.joining .asking) join9).points[p]).abnormal = false
        ∧ ((sending (.joining .asking) join9).points[p]).caught = false)
    ∧ (sending (.joining .asking) join9).annList.records = []
    ∧ (sending .active raise53).hasSent raise53 ∧ raise53.isJoin = false :=
  ⟨sending_hasSent _ _ rfl, rfl, by decide +kernel, by decide +kernel, rfl, sending_hasSent _ _ rfl, rfl⟩

/-- AgreedBulletinIsAppliedByAnActiveReceiver: a RAISE, a LOSS of another peer, transfer rolls for another peer, and a CLEAR
that removes. -/
theorem test_premises_AgreedBulletin :
    (∀ f ∈ [raise53, frame5 (.loss 9), frame5 (.transferRoll lastRoll), frame5 (.transferRoll firstRoll)],
      let s := hearing 20 .active f (some .agree)
      s.inService = true ∧ s.station = .active ∧ f.sender ≠ s.own ∧ f.isJoin = false ∧ f.body ≠ .loss s.own
      ∧ (9 : StationNo) ≠ s.own)
    ∧ (∀ f, (hearing 20 .active f (some .agree)).hasHeard f (some .agree)) ∧ agreeSeen.veto = .recessive
    ∧ (let s := withRecord (hearing 20 .active clear5 (some .agree))
      s.hasHeard clear5 (some .agree) ∧ s.station = .active ∧ clear5.sender ≠ s.own ∧ clear5.isJoin = false
      ∧ clear5.body ≠ .loss s.own
      ∧ (alarmSequence s.options s.inUse.lossGroup false clear5 s.annList.records).2.length < s.annList.records.length) :=
  ⟨by decide +kernel, fun f => hearing_hasHeard _ _ _ _ rfl, rfl, ⟨rfl, rfl, rfl, 50, rfl⟩, rfl, by decide, rfl, by decide,
    by decide +kernel⟩

/-- AcceptedJoinBeginsAWalkWhereItWasAgreed: at a station that agreed and at one that stepped, with an empty list; and of a
lost station whose HELD loss record goes, in a group with AUTOCLEAR. -/
theorem test_premises_AcceptedJoin :
    (∀ slot, (hearing 20 .active join9 (some slot)).hasHeard join9 (some slot))
    ∧ (∀ slot ∈ [Slot.agree, Slot.step],
      let s := hearing 20 .active join9 (some slot)
      s.station = .active ∧ join9.sender ≠ s.own ∧ s.outbox.inFlight = []
      ∧ (alarmSequence s.options s.inUse.lossGroup false join9 s.annList.records).2 = s.annList.records)
    ∧ join9.body = .join .start 0x1234 ∧ agreeSeen.veto = .recessive ∧ agreeSeen.agree = .dominant
    ∧ (let s := { hearing 20 .active join9 (some .agree) with
        settings := some { settingsFor 20 with
          options := Vector.replicate 8 { lockin := false, ringback := false, autoclear := true, firstout := false } }
        annList := { AnnList.reset with records := [rec_ (lossPoint 9) .held 7] } };
      s.hasHeard join9 (some .agree) ∧ s.station = .active ∧ join9.sender ≠ s.own ∧ s.outbox.inFlight = []
      ∧ (alarmSequence s.options s.inUse.lossGroup false join9 s.annList.records).2.length < s.annList.records.length) :=
  ⟨fun _ => hearing_hasHeard _ _ _ _ rfl, by decide +kernel, rfl, rfl, rfl, ⟨rfl, rfl, rfl, 50, rfl⟩, rfl, by decide, rfl,
    by decide +kernel⟩

/-- VoidFramesChangeNothingAndSteppedOnesDivide: VETO, STEP alone with no drive, a stepped JOIN and a stepped RAISE, and no
slot seen in the states that act on none. -/
theorem test_premises_VoidFrames :
    (hearing 20 .active raise53 (some .agree)).hasHeard raise53 (some .agree) ∧ vetoSeen.veto = .dominant
    ∧ (hearing 20 (.joining .asking) raise53 none).hasHeard raise53 none
    ∧ (hearing 20 .active raise53 (some .step)).hasHeard raise53 (some .step) ∧ raise53.isJoin = false
    ∧ (hearing 20 .active join9 (some .step)).hasHeard join9 (some .step) ∧ join9.isJoin = true
    ∧ (hearing 20 .active join9 (some .step)).station = .active
    ∧ join9.sender ≠ (hearing 20 .active join9 (some .step)).own ∧ raise53.sender ≠ (hearing 20 .active raise53 (some .step)).own
    ∧ stepSeen.veto = .recessive ∧ stepSeen.agree = .recessive ∧ agreeSeen.agree = .dominant
    ∧ ∀ st ∈ [Station.muted 3 false, .listen 0, .joining .asking, .discord],
      (hearing 20 st raise53 none).hasHeard raise53 none ∧ (hearing 20 st raise53 none).station = st :=
  ⟨hearing_hasHeard _ _ _ _ rfl, rfl, hearing_hasHeard _ _ _ _ rfl, hearing_hasHeard _ _ _ _ rfl, rfl,
    hearing_hasHeard _ _ _ _ rfl, rfl, rfl, by decide, by decide, rfl, rfl, rfl,
    fun st h => ⟨⟨by revert st; decide, by revert st; decide, rfl, 50, rfl⟩, rfl⟩⟩

/-- OwnNumberLeadsToDiscordAndOwnLossToJoining: the own number in JOINING, ACTIVE and MUTED; a LOSS naming the station
at an ACTIVE one that agreed and at a MUTED one in step. -/
theorem test_premises_OwnNumber :
    (∀ st ∈ [Station.joining .asking, .active, .muted 0 false],
      (hearing 5 st raise53 none).inService = true ∧ raise53.sender = (hearing 5 st raise53 none).own)
    ∧ (hearing 5 .active raise53 (some .agree)).hasHeard raise53 (some .agree)
    ∧ (hearing 20 .active (frame5 (.loss 20)) (some .agree)).hasHeard (frame5 (.loss 20)) (some .agree)
    ∧ (hearing 20 (.muted 0 false) (frame5 (.loss 20)) none).hasHeard (frame5 (.loss 20)) none
    ∧ (frame5 (.loss 20)).sender ≠ (hearing 20 .active (frame5 (.loss 20)) (some .agree)).own
    ∧ (frame5 (.loss 20)).body = .loss (hearing 20 .active (frame5 (.loss 20)) (some .agree)).own
    ∧ (frame5 (.loss 20)).count = (hearing 20 (.muted 0 false) (frame5 (.loss 20)) none).lineCount
    ∧ agreeSeen.veto = .recessive ∧ agreeSeen.agree = .dominant :=
  ⟨by decide +kernel, hearing_hasHeard _ _ _ _ rfl, hearing_hasHeard _ _ _ _ rfl, hearing_hasHeard _ _ _ _ rfl, by decide,
    by decide +kernel, by decide, rfl, rfl⟩

/-- MutedAndJoiningStationsAcceptPassively: one boundary before each timer's end; a misread frame in MUTED and ACTIVE; MUTED in and out of step, admitted at its
first roll and at another's, filling in and out of step, at a roll that is taken, at the last one, at a first roll that is
the last, and at a transfer error. -/
theorem test_premises_MutedAndJoining :
    (following (stationIn 9 (.muted 3 false)) .receiver .formatError none).hasMisread none
    ∧ (following (stationIn 9 .active) .receiver .formatError (some .veto)).hasMisread (some .veto)
    ∧ (∀ st f, (hearing 9 st f none).inService = true → st.timerOver = false → (hearing 9 st f none).hasHeard f none)
    ∧ (∀ st ∈ [Station.muted 63 false, .muted 0 true, .joining (.admitted 3), .joining (.filling 3)],
      (hearing 9 st raise53 none).inService = true ∧ st.timerOver = false ∧ (hearing 9 st raise53 none).station = st
      ∧ raise53.sender ≠ (hearing 9 st raise53 none).own ∧ raise53.count = (hearing 9 st raise53 none).lineCount
      ∧ raise53.isJoin = false ∧ ({ raise53 with count := 143 } : Frame).count ≠ (hearing 9 st raise53 none).lineCount
      ∧ raise53.body ≠ .loss (hearing 9 st raise53 none).own)
    ∧ agreeSeen.veto = .recessive ∧ agreeSeen.agree = .dominant ∧ noneSeen.step = .recessive
    ∧ (let s := hearing 9 (.joining (.admitted 0)) (frame5 (.transferRoll firstRoll)) none
      firstRoll.target = s.own ∧ s.annList.records = [] ∧ firstRoll.predecessor = none
      ∧ firstRoll.record = some (rec_ 287 .settled 7) ∧ firstRoll.last = false
      ∧ takeRecord s.annList.records lastRoll.predecessor lastRoll.record = some [] ∧ lastRoll.target = s.own
      ∧ lastRoll.last = true ∧ s.outbox.entries = []
      ∧ takeRecord s.annList.records none (some (rec_ (lossPoint 5) .held 7)) = some [rec_ (lossPoint 5) .held 7]
      ∧ takeRecord s.annList.records (some 46) firstRoll.record = none) :=
  ⟨⟨rfl, rfl, by decide, 50, rfl⟩, ⟨rfl, rfl, by decide, 50, rfl⟩, fun _ _ h ht => hearing_hasHeard _ _ _ _ h ht, by decide +kernel, rfl,
    rfl, rfl, by decide +kernel⟩

/-- ProgrammingSessionOpensStagesBurnsAndCloses: outside UNCOMMISSIONED; closed, open and burning; cells 25 and 26. -/
theorem test_premises_Programming :
    busy.power = .running ∧ busy.port.selection ≠ .unserved ∧ (∀ c, busy.station ≠ .uncommissioned c)
    ∧ State.reset.serves ∧ State.reset.station = .uncommissioned .blank ∧ State.reset.session.phase = .closed
    ∧ State.reset.store[25].getLsbD 0 = false ∧ (storeOf 0 0 0 1)[25].getLsbD 0 = true
    ∧ staged.serves ∧ staged.station = .uncommissioned .blank ∧ staged.session.phase = .opened
    ∧ staged.session.staged = some (0, 0x45) ∧ (25 : CellNo).val = (25 : Byte).toNat ∧ 25 < (26 : Byte).toNat
    ∧ burning.serves ∧ burning.session.phase = .burning ∧ burning.session.staged = some (25, 1) ∧ burning.pending = []
    ∧ burning.station.inService = false ∧ burning.station ≠ .start ∧ burning.timebase.burnClocks = 0 :=
  ⟨rfl, by decide, by simp [busy, sending, following, stationIn], ⟨rfl, by decide⟩, rfl, rfl, by decide, by decide,
    ⟨rfl, by decide⟩, rfl, rfl, rfl, rfl, by decide, ⟨rfl, by decide⟩, rfl, rfl, rfl, rfl, by decide, rfl⟩

/-- ReadingRequestsReturnTheirFields: a list read from its head, after a record and after none; own and other numbers;
cells 25 and 26. -/
theorem test_premises_ReadingRequests :
    busy.power = .running ∧ busy.port.selection ≠ .unserved ∧ busy.session.phase ≠ .burning
    ∧ busy.annList.records = [] ++ rec_ 46 .held 2 :: [] ∧ (rec_ 46 .held 2).id.val = (46 : Half).toNat
    ∧ ((47 : Half) ≠ 0xFFFF ∧ ∀ r ∈ busy.annList.records, r.id.val ≠ (47 : Half).toNat)
    ∧ busy.settings = some (settingsFor 5) ∧ State.reset.settings = none
    ∧ (25 : CellNo).val = (25 : Byte).toNat ∧ 25 < (26 : Byte).toNat := by
  decide +kernel

/-- OtherSelectionsAcknowledgeClearAndReport: served, burning, not served; an undefined code and one with operands. -/
theorem test_premises_OtherSelections :
    busy.power = .running ∧ busy.port.selection = .idle ∧ busy.session.phase ≠ .burning
    ∧ burning.serves ∧ burning.session.phase = .burning ∧ requestOperands 0x0A = none
    ∧ requestOperands 0x03 = some 2
    ∧ ((0x0A : Byte) ∉ [0x01, 0x02, 0x03, 0x04, 0x05, 0x06, 0x07, 0x08, 0x09, 0x10, 0x11, 0x12, 0x13, 0x1F]
      ∧ [true, false, true].length < 8)
    ∧ (after .selFallingEdge busy).port.selection = .served
    ∧ (let s := { busy with port := { busy.port with selection := .unserved } };
      ¬s.serves ∧ s.port.selection ≠ .served ∧ s.power = .running)
    ∧ (let s := { busy with power := .inReset .pin }; s.power ≠ .running ∧ s.port.selection = .idle ∧ ¬s.serves) :=
  ⟨rfl, rfl, by decide, ⟨rfl, by decide⟩, rfl, rfl, rfl, by decide, rfl, ⟨fun h => h.2 rfl, by decide, rfl⟩, ⟨by decide, rfl, fun h => by simpa using h.1⟩⟩

end Sys2Proof.Tests
end

/-!
The repair of a walk's cursor (R17): where the cursor's record stands in the list before the bulletin, and the three ways
the repair can come out.
-/

namespace Sys2Proof.Machine

/-- A held point splits the list at its first record. -/
theorem holds_split {rs : List Record} {p : PointId} (h : holds rs p = true) :
    ∃ older r newer, rs = older ++ r :: newer ∧ r.id = p ∧ ∀ x ∈ older, x.id ≠ p := by
  obtain ⟨r, hr⟩ : ∃ r, findRecord rs p = some r :=
    Option.ne_none_iff_exists'.1 fun hn => by simp [(findRecord_eq_none rs p).1 hn] at h
  obtain ⟨hid, older, newer, hrs, holder⟩ := List.find?_eq_some_iff_append.1 hr
  exact ⟨older, r, newer, hrs, by simpa using hid, by simpa using holder⟩

theorem repairCursor_of_holds (before : List Record) {after : List Record} {c : PointId} (h : holds after c = true) :
    repairCursor before after (some c) = some c := by
  simp [repairCursor, h]

/-- A removed cursor record: the search goes through the records before it, nearest first. -/
theorem repairCursor_of_removed {after older newer : List Record} {r : Record} (h : holds after r.id = false)
    (ho : ∀ x ∈ older, x.id ≠ r.id) :
    repairCursor (older ++ r :: newer) after (some r.id)
      = (older.reverse.find? fun x => holds after x.id).map Record.id := by
  have hbefore : (older ++ r :: newer).takeWhile (fun x => x.id != r.id) = older := by
    rw [List.takeWhile_append_of_pos (by simpa using ho)]
    simp
  simp only [repairCursor, h, hbefore, Bool.false_eq_true, if_false]

/-- What the repair can come to: the cursor's record is still held and the cursor stays; it is not, and the cursor stands
on the nearest record before it that is; or none before it is, and the cursor stands before the head. -/
theorem repairCursor_cases {before after : List Record} {c : PointId} (hc : holds before c = true) :
    (holds after c = true ∧ repairCursor before after (some c) = some c)
    ∨ (holds after c = false ∧ ∃ older r between r' newer,
        before = older ++ r :: between ++ r' :: newer ∧ r'.id = c ∧ holds after r.id = true
          ∧ (∀ x ∈ between, holds after x.id = false) ∧ repairCursor before after (some c) = some r.id)
    ∨ (holds after c = false ∧ ∃ older r' newer,
        before = older ++ r' :: newer ∧ r'.id = c ∧ (∀ x ∈ older, holds after x.id = false)
          ∧ repairCursor before after (some c) = none) := by
  cases hafter : holds after c with
  | true => exact .inl ⟨rfl, repairCursor_of_holds before hafter⟩
  | false =>
    obtain ⟨earlier, r', newer, rfl, rfl, hearlier⟩ := holds_split hc
    have hrepair := repairCursor_of_removed (newer := newer) hafter hearlier
    cases hfind : earlier.reverse.find? fun x => holds after x.id with
    | none =>
      rw [hfind] at hrepair
      exact .inr (.inr ⟨rfl, earlier, r', newer, rfl, rfl, by simpa using hfind, hrepair⟩)
    | some r =>
      rw [hfind] at hrepair
      obtain ⟨hr, between, older, hsplit, hbetween⟩ := List.find?_eq_some_iff_append.1 hfind
      have hplace : earlier = older.reverse ++ r :: between.reverse := by
        simpa using List.reverse_eq_iff.1 hsplit
      exact .inr (.inl ⟨rfl, older.reverse, r, between.reverse, r', newer, by rw [hplace], rfl, hr,
        by simpa using hbetween, hrepair⟩)

/-- Settles O24: each part is read off the three outcomes of `repairCursor_cases`; the record the cursor moves to is held
and the one it leaves is not, so the two are not of one point. -/
theorem cursorMovesBackToTheNearestRemainingRecord : Obligations.CursorMovesBackToTheNearestRemainingRecord := by
  intro before after c _ hc
  rcases repairCursor_cases (after := after) hc with
    ⟨hafter, hstays⟩ | ⟨hafter, older, r, between, r', newer, hbefore, hr', hr, hbetween, hmoves⟩
    | ⟨hafter, older, r', newer, hbefore, hr', holder, hends⟩
  case inl =>
    refine ⟨fun _ => hstays, by simp [hafter], fun d hd hne => ?_, by simp [hstays], rfl⟩
    exact absurd (Option.some.inj (hstays.symm.trans hd)).symm hne
  case inr.inl =>
    have hleaves : r.id ≠ c := fun h => by simp [← h, hr] at hafter
    refine ⟨by simp [hafter], by simp [hmoves, hleaves], ?_, by simp [hmoves], rfl⟩
    intro d hd _
    obtain rfl : r.id = d := Option.some.inj (hmoves.symm.trans hd)
    exact ⟨hafter, older, r, between, r', newer, hbefore, rfl, hr', hr, hbetween⟩
  case inr.inr =>
    exact ⟨by simp [hafter], by simp [hends], by simp [hends],
      fun _ => ⟨older, r', newer, hbefore, hr', hafter, holder⟩, rfl⟩

end Sys2Proof.Machine

/-!
The offers and the choice of the outbox (R46, R47, R49): a transition offer by the point's newest entry, and the entry that
the next start takes, as it stands among the older and the newer ones.
-/

namespace Sys2Proof.Machine

/-! A transition offer (R49). -/

theorem PointKind.subject_injective (p : LocalPoint) : Function.Injective fun k : PointKind => k.subject p
  | .raise, .raise, _ => rfl
  | .ret, .ret, _ => rfl

theorem newest_of_ofPoint {o : Outbox} {p : LocalPoint} {older : List Entry} {e : Entry} (h : o.ofPoint p = older ++ [e]) :
    o.newest p = some e := by
  rw [Outbox.newest, h, List.getLast?_concat]

theorem transitionOffer_of_no_entry {o : Outbox} {p : LocalPoint} (h : o.ofPoint p = []) (k : PointKind) :
    o.transitionOffer k p = o.append (k.subject p) := by
  simp [Outbox.transitionOffer, Outbox.newest, h]

theorem transitionOffer_of_same_kind {o : Outbox} {k : PointKind} {p : LocalPoint} {b : Bool}
    (h : o.newest p = some ⟨k.subject p, b⟩) : o.transitionOffer k p = o := by
  simp [Outbox.transitionOffer, h]

theorem transitionOffer_of_other_kind {o : Outbox} {k : PointKind} {p : LocalPoint} {e : Entry}
    (h : o.newest p = some e) (hk : e.subject ≠ k.subject p) :
    o.transitionOffer k p = if e.inFlight then o.append (k.subject p) else o.withdraw e.subject := by
  simp [Outbox.transitionOffer, h, hk]

/-- Settles O30: each row is the offer at that newest entry; the withdrawal of the last row is `withdraw_entries`. -/
theorem transitionOfferActsOnTheNewestEntry : Obligations.TransitionOfferActsOnTheNewestEntry := by
  intro o p k other hkinds
  have hother : other.subject p ≠ k.subject p := (PointKind.subject_injective p).ne hkinds.symm
  refine ⟨fun hnone => transitionOffer_of_no_entry hnone k, fun older hsame => ?_, fun older hflying => ?_,
    fun older hpending => ?_⟩
  · rcases hsame with hsame | hsame <;> exact transitionOffer_of_same_kind (newest_of_ofPoint hsame)
  · exact transitionOffer_of_other_kind (newest_of_ofPoint hflying) hother
  · calc o.transitionOffer k p
      _ = o.withdraw (other.subject p) := transitionOffer_of_other_kind (newest_of_ofPoint hpending) hother
      _ = { o with entries := o.entries.filter fun e => e != ⟨other.subject p, false⟩ } :=
        congrArg (fun es => { o with entries := es }) (withdraw_entries o _)

/-! The entry that a start takes (R46, R47). -/

/-- The choice among entries: those before it are of higher codes, those after it of no lower one. -/
theorem lowestCode_split {l : List Entry} {e : Entry} (h : lowestCode l = some e) :
    ∃ older newer, l = older ++ e :: newer ∧ (∀ y ∈ older, e.subject.code < y.subject.code)
      ∧ ∀ y ∈ newer, e.subject.code ≤ y.subject.code := by
  induction l generalizing e with
  | nil => cases h
  | cons x rest ih =>
    cases hrest : lowestCode rest with
    | none =>
      obtain rfl : x = e := by simpa [lowestCode, hrest] using h
      exact ⟨[], rest, rfl, by simp, by simp [(lowestCode_eq_none rest).1 hrest]⟩
    | some b =>
      obtain ⟨older, newer, rfl, holder, hnewer⟩ := ih hrest
      by_cases hx : x.subject.code ≤ b.subject.code
      · obtain rfl : x = e := by simpa [lowestCode, hrest, hx] using h
        refine ⟨[], _, rfl, by simp, fun y hy => ?_⟩
        rcases List.mem_append.1 hy with hy | hy
        · exact hx.trans (holder y hy).le
        · rcases List.mem_cons.1 hy with rfl | hy
          · exact hx
          · exact hx.trans (hnewer y hy)
      · obtain rfl : b = e := by simpa [lowestCode, hrest, hx] using h
        exact ⟨x :: older, newer, rfl, by simpa using ⟨Nat.lt_of_not_le hx, holder⟩, hnewer⟩

/-- An eligible entry stands in the outbox behind the entries that the eligible ones before it come from. -/
theorem eligibleEntries_split {before l first last : List Entry} {e : Entry}
    (h : eligibleEntries before l = first ++ e :: last) :
    ∃ older newer, l = older ++ e :: newer ∧ eligibleAfter (before ++ older) e = true
      ∧ eligibleEntries before older = first := by
  induction l generalizing before first with
  | nil => simp [eligibleEntries] at h
  | cons x rest ih =>
    by_cases hx : eligibleAfter before x = true
    · cases first with
      | nil =>
        obtain ⟨rfl, -⟩ : x = e ∧ _ := by simpa [eligibleEntries, hx] using h
        exact ⟨[], rest, rfl, by simpa using hx, rfl⟩
      | cons y first =>
        obtain ⟨rfl, hrest⟩ : x = y ∧ eligibleEntries (before ++ [x]) rest = first ++ e :: last := by
          simpa [eligibleEntries, hx] using h
        obtain ⟨older, newer, rfl, he, hfirst⟩ := ih hrest
        exact ⟨x :: older, newer, rfl, by simpa using he, by simp [eligibleEntries, hx, hfirst]⟩
    · obtain ⟨older, newer, rfl, he, hfirst⟩ := ih (by simpa [eligibleEntries, hx] using h)
      exact ⟨x :: older, newer, rfl, by simpa using he, by simp [eligibleEntries, hx, hfirst]⟩

theorem choice_eq_none (o : Outbox) :
    o.choice = none ↔ ∀ older e newer, o.entries = older ++ e :: newer → ¬eligibleAfter older e = true := by
  rw [Outbox.choice, Option.map_eq_none_iff, lowestCode_eq_none, List.eq_nil_iff_forall_not_mem]
  simp only [mem_eligibleEntries, List.nil_append, not_exists, not_and]
  exact forall_comm

/-- The chosen entry in its place: every eligible entry older than it is of a higher code, and none of a lower one. -/
theorem choice_split {o : Outbox} {x : Subject} (h : o.choice = some x) :
    ∃ older e newer, o.entries = older ++ e :: newer ∧ e.subject = x ∧ eligibleAfter older e = true
      ∧ (∀ y ∈ eligibleEntries [] older, x.code < y.subject.code)
      ∧ ∀ y ∈ eligibleEntries [] o.entries, x.code ≤ y.subject.code := by
  obtain ⟨e, he, rfl⟩ := Option.map_eq_some_iff.1 h
  obtain ⟨first, last, hsplit, hfirst, hlast⟩ := lowestCode_split he
  obtain ⟨older, newer, hentries, helig, rfl⟩ := eligibleEntries_split hsplit
  refine ⟨older, e, newer, hentries, rfl, helig, hfirst, fun y hy => ?_⟩
  rw [hsplit, List.mem_append, List.mem_cons] at hy
  rcases hy with hy | rfl | hy
  · exact (hfirst y hy).le
  · exact le_rfl
  · exact hlast y hy

/-- Settles O29: another eligible entry either stands at or behind the chosen one, and is of no lower code, or stands
before it, among the entries of higher codes. -/
theorem startTakesTheOldestEligibleEntryOfTheLowestCode :
    Obligations.StartTakesTheOldestEligibleEntryOfTheLowestCode := by
  intro o
  simp only [← eligibleAfter_iff]
  refine ⟨choice_eq_none o, fun x hx => ?_⟩
  obtain ⟨older, e, newer, hentries, hsubject, helig, hbefore, hall⟩ := choice_split hx
  refine ⟨older, e, newer, hentries, hsubject, helig, fun older' e' newer' hentries' helig' => ?_⟩
  rcases Nat.lt_or_ge older'.length older.length with hlt | hge
  · obtain ⟨between, hbetween⟩ : older' ++ [e'] <+: older := by
      refine List.prefix_of_prefix_length_le (l₃ := o.entries)
        ⟨newer', by simp [hentries']⟩ ⟨e :: newer, hentries.symm⟩ ?_
      simpa using hlt
    refine .inl (hbefore e' ((mem_eligibleEntries ..).2 ⟨older', between, ?_, helig'⟩))
    simpa using hbetween.symm
  · have hle := hall e' ((mem_eligibleEntries ..).2 ⟨older', newer', hentries', helig'⟩)
    exact hle.lt_or_eq.imp_right fun heq => ⟨heq, hge⟩

end Sys2Proof.Machine

/-!
What the flight law and the outbox law leave room for (R57): entries that may not stand together, counted kind by kind.
-/

namespace Sys2Proof.Machine

/-! Which entries stand together. -/

/-- Two entries that the outbox law keeps apart wherever they stand. A group action is left out: a newer pending one may
follow the one in flight (R152). -/
def Entry.excludes (a b : Entry) : Prop := a.subject.isGroupAction = false ∧ a.subject.clashes b.subject

theorem entries_pairwise_not_excludes {s : State} (h : OutboxLaw s) :
    s.outbox.entries.Pairwise fun a b => ¬a.excludes b := by
  obtain ⟨hwaiting, hflight, -, -⟩ := h
  rw [List.pairwise_iff_forall_sublist]
  rintro a b hab ⟨hgroup, hclash⟩
  obtain ⟨before, after, hentries, ha, hb⟩ := List.cons_sublist_iff.1 hab
  rw [List.singleton_sublist] at hb
  cases hfa : a.inFlight with
  | true =>
    obtain ⟨older, between, rfl⟩ := List.append_of_mem ha
    obtain ⟨-, hnewer, -⟩ := hflight older a (between ++ after) (by simp [hentries]) hfa
    exact hnewer b (List.mem_append_right _ hb) hgroup hclash
  | false =>
    cases hfb : b.inFlight with
    | true =>
      obtain ⟨between, newer, rfl⟩ := List.append_of_mem hb
      obtain ⟨holder, -, -⟩ := hflight (before ++ between) b newer (by simp [hentries]) hfb
      exact holder a (List.mem_append_left _ ha) hclash
    | false =>
      have hpending : [a, b].Sublist s.outbox.waiting := by
        simpa [Outbox.waiting, hfa, hfb] using hab.filter fun e => !e.inFlight
      exact List.pairwise_iff_forall_sublist.1 hwaiting hpending hclash

theorem waiting_pairwise_not_excludes {s : State} (h : OutboxLaw s) :
    s.outbox.waiting.Pairwise fun a b => ¬a.excludes b :=
  (entries_pairwise_not_excludes h).sublist List.filter_sublist

theorem subject_ne_of_not_excludes {a b : Entry} (hgroup : a.subject.isGroupAction = false) (h : ¬a.excludes b) :
    a.subject ≠ b.subject :=
  fun heq => h ⟨hgroup, .inl heq⟩

theorem peer_ne_of_not_excludes {a b : Entry} (hpeer : a.subject.peer.isSome = true) (h : ¬a.excludes b) :
    a.subject.peer ≠ b.subject.peer := by
  have hgroup : a.subject.isGroupAction = false := by
    cases hs : a.subject <;> simp [hs, Subject.peer] at hpeer <;> rfl
  exact fun heq => h ⟨hgroup, .inr ⟨hpeer, heq⟩⟩

/-! The kinds of subjects. -/

theorem ofPoint_eq_true (p : LocalPoint) (x : Subject) : x.ofPoint p = true ↔ x = .raise p ∨ x = .ret p := by
  cases x <;> simp [Subject.ofPoint]

theorem isGroupAction_eq_true (x : Subject) : x.isGroupAction = true ↔ x = .ack ∨ x = .silence ∨ x = .clear := by
  cases x <;> simp [Subject.isGroupAction]

theorem code_eq_zero_or_two (x : Subject) : x.code = 0 ∨ x.code = 2 ↔ ∃ p, x = .raise p ∨ x = .ret p := by
  cases x <;> simp [Subject.code]

theorem isGroupAction_of_ofPoint {p : LocalPoint} {x : Subject} (h : x.ofPoint p = true) : x.isGroupAction = false := by
  rcases (ofPoint_eq_true p x).1 h with rfl | rfl <;> rfl

/-! Counting (R57). -/

/-- Entries of a kind whose keys must differ are no more than the values the key takes at that kind. -/
theorem length_filter_le_of_pairwise {β : Type} {l : List Entry} {R : Entry → Entry → Prop}
    (hl : l.Pairwise R) (kind : Entry → Bool) (key : Entry → β) (values : List β)
    (hkey : ∀ a b, kind a = true → R a b → key a ≠ key b)
    (hvalues : ∀ e ∈ l, kind e = true → key e ∈ values) :
    (l.filter kind).length ≤ values.length := by
  have hnodup : ((l.filter kind).map key).Nodup := by
    refine List.pairwise_map.2 ((hl.sublist List.filter_sublist).imp_of_mem fun ha _ hab => ?_)
    exact hkey _ _ (List.mem_filter.1 ha).2 hab
  have hsubset : (l.filter kind).map key ⊆ values := by
    intro x hx
    obtain ⟨e, he, rfl⟩ := List.mem_map.1 hx
    obtain ⟨hmem, hkind⟩ := List.mem_filter.1 he
    exact hvalues e hmem hkind
  simpa using (List.subperm_of_subset hnodup hsubset).length_le

/-- R57's table: every entry but a JOIN is of a field point, in flight, or a pending group action, LOSS or transfer roll,
or a presence roll. -/
theorem length_le_sum_of_kinds {l : List Entry} (h : ∀ e ∈ l, e.subject.isJoin = false) :
    l.length
      ≤ (l.filter fun e => decide (e.subject.code = 0 ∨ e.subject.code = 2)).length
        + ((l.filter fun e => !e.inFlight).filter fun e => e.subject.isGroupAction).length
        + ((l.filter fun e => !e.inFlight).filter fun e => e.subject.peer.isSome).length
        + (l.filter fun e => decide (e.subject = .presenceRoll)).length
        + (l.filter Entry.inFlight).length := by
  induction l with
  | nil => simp
  | cons e rest ih =>
    have hrest := ih fun x hx => h x (List.mem_cons_of_mem _ hx)
    have he := h e (List.mem_cons_self ..)
    rcases e with ⟨x, flying⟩
    cases x <;> cases flying <;>
      simp [Subject.code, Subject.isGroupAction, Subject.peer, Subject.isJoin] at he hrest ⊢ <;> omega

section Bounds

variable {s : State}

theorem ofPoint_pairwise (h : OutboxLaw s) (p : LocalPoint) :
    (s.outbox.ofPoint p).Pairwise fun a b => a.subject ≠ b.subject := by
  refine ((entries_pairwise_not_excludes h).sublist List.filter_sublist).imp_of_mem fun ha _ => ?_
  exact subject_ne_of_not_excludes (isGroupAction_of_ofPoint (List.mem_filter.1 ha).2)

theorem ofPoint_length_le (h : OutboxLaw s) (p : LocalPoint) : (s.outbox.ofPoint p).length ≤ 2 := by
  refine length_filter_le_of_pairwise (entries_pairwise_not_excludes h) _ Entry.subject [.raise p, .ret p] ?_ ?_
  · exact fun a b ha => subject_ne_of_not_excludes (isGroupAction_of_ofPoint ha)
  · simp [ofPoint_eq_true]

theorem fieldPointEntries_length_le (h : OutboxLaw s) :
    (s.outbox.entries.filter fun e => decide (e.subject.code = 0 ∨ e.subject.code = 2)).length ≤ 16 := by
  refine length_filter_le_of_pairwise (entries_pairwise_not_excludes h) _ Entry.subject
    ((List.finRange 8).map .raise ++ (List.finRange 8).map .ret) ?_ ?_
  · intro a b ha
    obtain ⟨p, hp⟩ := (code_eq_zero_or_two a.subject).1 (of_decide_eq_true ha)
    exact subject_ne_of_not_excludes (isGroupAction_of_ofPoint ((ofPoint_eq_true p _).2 hp))
  · intro e _ he
    obtain ⟨p, hp | hp⟩ := (code_eq_zero_or_two e.subject).1 (of_decide_eq_true he) <;> simp [hp]

theorem waitingGroupActions_length_le (h : OutboxLaw s) :
    (s.outbox.waiting.filter fun e => e.subject.isGroupAction).length ≤ 3 := by
  obtain ⟨hwaiting, -, -, -⟩ := h
  refine length_filter_le_of_pairwise hwaiting _ Entry.subject [.ack, .silence, .clear] ?_ ?_
  · exact fun a b _ hclash heq => hclash (.inl heq)
  · simp [isGroupAction_eq_true]

theorem waitingForPeer_length_le (h : OutboxLaw s) (n : StationNo) :
    (s.outbox.waiting.filter fun e => decide (e.subject.peer = some n)).length ≤ 1 := by
  refine length_filter_le_of_pairwise (waiting_pairwise_not_excludes h) _ (fun e => e.subject.peer) [some n] ?_ (by simp)
  exact fun a b ha => peer_ne_of_not_excludes (by simp [of_decide_eq_true ha])

theorem waitingForPeers_length_le (h : OutboxLaw s) :
    (s.outbox.waiting.filter fun e => e.subject.peer.isSome).length ≤ 31 := by
  have hpeers : (((List.finRange 32).erase s.own).map some).length = 31 := by simp [List.length_erase_of_mem]
  refine (length_filter_le_of_pairwise (waiting_pairwise_not_excludes h) _ (fun e => e.subject.peer)
    (((List.finRange 32).erase s.own).map some) (fun a b => peer_ne_of_not_excludes) ?_).trans hpeers.le
  intro e he hpeer
  obtain ⟨n, hn⟩ := Option.isSome_iff_exists.1 hpeer
  obtain ⟨-, -, hown, -⟩ := h
  have hne : n ≠ s.own := fun heq => hown e (List.mem_filter.1 he).1 (by rw [hn, heq])
  simpa [hn, (List.nodup_finRange 32).mem_erase_iff] using hne

theorem presenceRolls_length_le (h : OutboxLaw s) :
    (s.outbox.entries.filter fun e => decide (e.subject = .presenceRoll)).length ≤ 1 := by
  refine length_filter_le_of_pairwise (entries_pairwise_not_excludes h) _ Entry.subject [.presenceRoll] ?_ (by simp)
  intro a b ha
  exact subject_ne_of_not_excludes (by rw [of_decide_eq_true ha]; rfl)

theorem inFlight_length_le (h : FlightLaw s) : s.outbox.inFlight.length ≤ 1 := by
  obtain ⟨hflight, -⟩ := h
  split at hflight
  · simp [hflight]
  · simp [hflight.1]

/-- A JOIN stands alone and never in ACTIVE (Table 6-1). -/
theorem join_alone (h : FlightLaw s) {e : Entry} (he : e ∈ s.outbox.entries) (hjoin : e.subject.isJoin = true) :
    s.station ≠ .active ∧ s.outbox.entries = [e] := by
  obtain ⟨-, hstation⟩ := h
  split at hstation
  · simp [hstation e he] at hjoin
  · rename_i hs
    obtain ⟨r, b, hentries⟩ := hstation
    obtain rfl : e = ⟨.join r, b⟩ := by simpa [hentries] using he
    exact ⟨by simp [hs], hentries⟩
  · simp [hstation] at he

theorem entries_length_le (hflight : FlightLaw s) (houtbox : OutboxLaw s) : s.outbox.entries.length ≤ 52 := by
  by_cases hjoin : ∃ e ∈ s.outbox.entries, e.subject.isJoin = true
  · obtain ⟨e, he, hjoin⟩ := hjoin
    simp [(join_alone hflight he hjoin).2]
  · calc s.outbox.entries.length
      _ ≤ _ := length_le_sum_of_kinds fun e he => by simpa using fun hj => hjoin ⟨e, he, hj⟩
      _ ≤ 16 + 3 + 31 + 1 + 1 := by
        gcongr
        exacts [fieldPointEntries_length_le houtbox, waitingGroupActions_length_le houtbox,
          waitingForPeers_length_le houtbox, presenceRolls_length_le houtbox, inFlight_length_le hflight]

end Bounds

/-- Settles O7: the outbox law keeps entries of one subject, and pending entries for one peer, apart, which bounds each
line of R57's table; the bounds add up to 52, and a JOIN stands alone. -/
theorem outboxHoldsAtMost52Entries : Obligations.OutboxHoldsAtMost52Entries := by
  intro s hflight houtbox
  refine ⟨entries_length_le hflight houtbox, fun p => ⟨ofPoint_length_le houtbox p, fun a b hab => ?_⟩,
    fieldPointEntries_length_le houtbox, waitingGroupActions_length_le houtbox, waitingForPeer_length_le houtbox,
    waitingForPeers_length_le houtbox, presenceRolls_length_le houtbox, inFlight_length_le hflight,
    fun e he hjoin => join_alone hflight he hjoin⟩
  simpa [hab] using ofPoint_pairwise houtbox p

end Sys2Proof.Machine

/-!
The verdict of an ACTIVE receiver (R86 to R88, Table 5-1): which senders are written off, and one AGREE condition per row.
-/

namespace Sys2Proof.Machine

section Verdict

variable {s : State} {f : Frame}

@[simp] theorem verdict_eq_agree_iff : s.verdict f = .agree ↔ s.agrees f = true := by
  cases h : s.agrees f <;> simp [State.verdict, h]

@[simp] theorem verdict_eq_step_iff : s.verdict f = .step ↔ s.agrees f = false := by
  cases h : s.agrees f <;> simp [State.verdict, h]

theorem writtenOff_iff {n : StationNo} :
    s.writtenOff n = true ↔ n ≠ s.own ∧ (s.peerState n = .silent ∨ s.peerState n = .discord) := by
  simp [State.writtenOff]

theorem writtenOff_eq_false_iff {n : StationNo} :
    s.writtenOff n = false ↔ n = s.own ∨ (s.peerState n ≠ .silent ∧ s.peerState n ≠ .discord) := by
  rw [← Bool.not_eq_true, writtenOff_iff]
  tauto

theorem digestsAgree_presenceRoll_iff {sd ld : Half} {n : Fin 65} :
    s.digestsAgree (.presenceRoll sd ld n) = true
      ↔ sd = s.inUse.digest ∧ ld = listDigestOf s.annList.records := by
  simp [State.digestsAgree, State.listDigest]

theorem digestsAgree_of_ne_presenceRoll {b : Bulletin} (hb : ∀ sd ld n, b ≠ .presenceRoll sd ld n) :
    s.digestsAgree b = true := by
  cases b with
  | presenceRoll sd ld n => exact absurd rfl (hb sd ld n)
  | _ => rfl

/-- The first row: a JOIN is judged by its settings digest alone, whatever the sender's entry and the count. -/
theorem agrees_join_iff {r : Reason} {d : Half} (hjoin : f.body = .join r d) :
    s.agrees f = true ↔ d = s.inUse.digest := by
  simp [State.agrees, hjoin]

/-- The rows of any other kind: the sender is not written off, and the count and the digests carried are the receiver's. -/
theorem agrees_of_ne_join (hkind : ∀ r d, f.body ≠ .join r d) :
    s.agrees f = (!s.writtenOff f.sender && f.count == s.lineCount && s.digestsAgree f.body) := by
  unfold State.agrees
  split
  case h_1 r d hjoin => exact absurd hjoin (hkind r d)
  case h_2 => rfl

end Verdict

/-- Settles O49: a JOIN is decided by `agrees_join_iff`; any other frame first by whether its sender is written off, then
by the count and by the digests its kind carries. -/
theorem verdictFollowsTable51 : Obligations.VerdictFollowsTable51 := by
  intro s f
  refine ⟨?_, fun r d hjoin => verdict_eq_agree_iff.trans (agrees_join_iff hjoin), fun hkind => ⟨?_, fun hjudged => ?_⟩⟩
  · cases h : s.agrees f <;> simp [h]
  · intro hother hstate
    have hoff : s.writtenOff f.sender = true := writtenOff_iff.2 ⟨hother, hstate⟩
    simp [agrees_of_ne_join hkind, hoff]
  · have hrows : s.verdict f = .agree ↔ f.count = s.lineCount ∧ s.digestsAgree f.body = true := by
      simp [agrees_of_ne_join hkind, writtenOff_eq_false_iff.2 hjudged]
    refine ⟨fun sd ld n hroll => ?_, fun hplain => ?_⟩
    · rw [hrows, hroll, digestsAgree_presenceRoll_iff]
    · simp [hrows, digestsAgree_of_ne_presenceRoll hplain]

end Sys2Proof.Machine

/-!
Reconciliation of a point (R145 to R147): what its record shows, the sequence that each row of Tables 8-3 and 8-4 gives,
and what a republish of that sequence leaves of the points and of the outbox.
-/

namespace Sys2Proof.Machine

/-! What the record shows. -/

/-- The state of the record of a local point, if the list holds one. -/
def State.pointRecord (s : State) (p : LocalPoint) : Option RecordState :=
  (findRecord s.annList.records (fieldPoint s.own p)).map Record.state

/-- In a list with one record for each point, the record found is the only one that can show the point abnormal. -/
theorem showsAbnormal_findRecord_iff {rs : List Record} (hnodup : (rs.map Record.id).Nodup) (c : PointId) :
    showsAbnormal ((findRecord rs c).map Record.state) = true
      ↔ ∃ r ∈ rs, r.id = c ∧ (r.state = .alert ∨ r.state = .held) := by
  constructor
  · intro hshows
    cases hfind : findRecord rs c with
    | none => simp [hfind, showsAbnormal] at hshows
    | some r =>
      obtain ⟨hmem, hid⟩ := findRecord_mem hfind
      exact ⟨r, hmem, hid, by simpa [hfind, showsAbnormal] using hshows⟩
  · rintro ⟨r, hmem, rfl, hstate⟩
    simpa [findRecord_of_mem hnodup hmem, showsAbnormal] using hstate

/-! The latch and the sequence, row by row (Tables 8-3, 8-4). -/

section Rows

variable {mode : PointMode} {abnormal caught : Bool} {r : Option RecordState}

theorem reconcileCaught_of_shows (h : showsAbnormal r = true) : reconcileCaught caught r = false := by
  simp [reconcileCaught, h]

theorem reconcileCaught_of_not_shows (h : showsAbnormal r = false) : reconcileCaught caught r = caught := by
  simp [reconcileCaught, h]

theorem reconcileSequence_level_abnormal_of_shows (h : showsAbnormal r = true) :
    reconcileSequence .level true caught r = [] := by
  simp [reconcileSequence, h]

theorem reconcileSequence_level_abnormal_of_not_shows (h : showsAbnormal r = false) :
    reconcileSequence .level true caught r = [.raise] := by
  simp [reconcileSequence, h]

/-- A PULSE point has the rows of a LEVEL point that is normal, whatever its own level. -/
theorem reconcileSequence_eq_level_normal (h : mode = .level → abnormal = false) :
    reconcileSequence mode abnormal caught r = reconcileSequence .level false caught r := by
  cases mode with
  | level => rw [h rfl]
  | pulse => cases caught <;> cases hr : showsAbnormal r <;> simp [reconcileSequence, hr]

theorem reconcileSequence_level_normal_of_shows (h : showsAbnormal r = true) :
    reconcileSequence .level false caught r = [.ret] := by
  simp [reconcileSequence, h]

theorem reconcileSequence_level_normal_of_not_shows (h : showsAbnormal r = false) :
    reconcileSequence .level false caught r = if caught = true then [.raise, .ret] else [] := by
  cases caught <;> simp [reconcileSequence, h]

end Rows

/-! What reconciliation of a point leaves (R145). -/

/-- The sequence that reconciliation republishes for a local point as the state stands. -/
def State.reconcileOffer (s : State) (p : LocalPoint) : List PointKind :=
  reconcileSequence (s.pointSettings p).mode (s.points[p]).abnormal (s.points[p]).caught (s.pointRecord p)

theorem State.eq_of_pointsOnly {s t : State} (h : s.pointsOnly t) :
    t = { s with points := t.points, outbox := t.outbox } := by
  obtain ⟨_, _, rfl⟩ := h
  rfl

/-- What reconciliation leaves of a local point whose record is in this state. -/
def Point.reconciled (pt : Point) (r : Option RecordState) : Point :=
  { pt with waiting := false, caught := reconcileCaught pt.caught r }

theorem State.reconcilePoint_points (s : State) (p : LocalPoint) :
    (s.reconcilePoint p).points = update s.points p fun pt => pt.reconciled (s.pointRecord p) := rfl

theorem State.reconcilePoint_points_same (s : State) (p : LocalPoint) :
    (s.reconcilePoint p).points[p] = (s.points[p]).reconciled (s.pointRecord p) := by
  rw [State.reconcilePoint_points, update_get, if_pos rfl]

theorem State.reconcilePoint_points_other (s : State) {p q : LocalPoint} (h : q ≠ p) :
    (s.reconcilePoint p).points[q] = s.points[q] := by
  rw [State.reconcilePoint_points, update_get, if_neg h]

theorem State.reconcilePoint_outbox {s : State} (hactive : s.station = .active) (p : LocalPoint) :
    (s.reconcilePoint p).outbox
      = if s.reconcileOffer p = [] then s.outbox else s.outbox.republish p (s.reconcileOffer p) :=
  if_pos (decide_eq_true hactive : s.isActive = true)

theorem State.reconcilePoint_outbox_of_no_offer {s : State} (hactive : s.station = .active) {p : LocalPoint}
    (h : s.reconcileOffer p = []) : (s.reconcilePoint p).outbox = s.outbox := by
  rw [State.reconcilePoint_outbox hactive, if_pos h]

/-- A republished sequence stands behind the entries of everything but the point (R51). -/
theorem State.reconcilePoint_entries_of_offer {s : State} (hactive : s.station = .active) {p : LocalPoint}
    {k : PointKind} {ks : List PointKind} (h : s.reconcileOffer p = k :: ks) :
    (s.reconcilePoint p).outbox.entries
      = (s.outbox.entries.filter fun x => !x.subject.ofPoint p)
        ++ (k :: ks).map fun k => pendingEntry (k.subject p) := by
  rw [State.reconcilePoint_outbox hactive, h, if_neg (List.cons_ne_nil k ks), Outbox.republish]

/-- Settles O39: the points and the latch are read off `reconcilePoint_points_same`; each row of the tables is an
equation of the sequence, republished by `reconcilePoint_entries_of_offer` or, where it is empty, not at all. -/
theorem reconciliationRepublishesByTables83And84 : Obligations.ReconciliationRepublishesByTables83And84 := by
  intro s p hactive hnodup e shown level t others
  have hshown : showsAbnormal (s.pointRecord p) = true ↔ shown := showsAbnormal_findRecord_iff hnodup _
  have hhidden (h : ¬shown) : showsAbnormal (s.pointRecord p) = false :=
    Bool.eq_false_iff.2 fun hshows => h (hshown.1 hshows)
  have hpoint := s.reconcilePoint_points_same p
  have habnormal (hlevel : level) (h : e.abnormal = true) :
      s.reconcileOffer p = reconcileSequence .level true e.caught (s.pointRecord p) :=
    congrArg₂ (reconcileSequence · · e.caught (s.pointRecord p)) hlevel h
  have hnormal (h : level → e.abnormal = false) :
      s.reconcileOffer p = reconcileSequence .level false e.caught (s.pointRecord p) :=
    reconcileSequence_eq_level_normal h
  refine ⟨⟨State.eq_of_pointsOnly (s.reconcilePoint_pointsOnly p), fun q hq => s.reconcilePoint_points_other hq,
      (congrArg Point.waiting hpoint :), (congrArg Point.abnormal hpoint :)⟩,
    fun h => ?latchCleared, fun h => ?latchKept,
    fun hlevel habn h => ?abnormalShown, fun hlevel habn h => ?abnormalHidden,
    fun hnorm h => ?normalShown, fun hnorm h hcaught => ?caughtHidden, fun hnorm h hcaught => ?nothingOwed⟩
  case latchCleared => exact (congrArg Point.caught hpoint).trans (reconcileCaught_of_shows (hshown.2 h))
  case latchKept => exact (congrArg Point.caught hpoint).trans (reconcileCaught_of_not_shows (hhidden h))
  case abnormalShown =>
    exact State.reconcilePoint_outbox_of_no_offer hactive
      ((habnormal hlevel habn).trans (reconcileSequence_level_abnormal_of_shows (hshown.2 h)))
  case abnormalHidden =>
    exact State.reconcilePoint_entries_of_offer hactive
      ((habnormal hlevel habn).trans (reconcileSequence_level_abnormal_of_not_shows (hhidden h)))
  case normalShown =>
    exact State.reconcilePoint_entries_of_offer hactive
      ((hnormal hnorm).trans (reconcileSequence_level_normal_of_shows (hshown.2 h)))
  case caughtHidden =>
    refine State.reconcilePoint_entries_of_offer hactive (k := .raise) (ks := [.ret]) ?_
    rw [hnormal hnorm, reconcileSequence_level_normal_of_not_shows (hhidden h), if_pos hcaught]
  case nothingOwed =>
    refine State.reconcilePoint_outbox_of_no_offer hactive ?_
    rw [hnormal hnorm, reconcileSequence_level_normal_of_not_shows (hhidden h), if_neg (by simp [hcaught])]

end Sys2Proof.Machine

/-!
What one step can do, said once: every command but a reset, and every clock period, is a chain of small effects on the
state, each with the facts under which the model makes it. The laws of the state are then proved effect by effect.
-/

namespace Sys2Proof.Machine

/-
The checks of the proofs above still run beside this line, and every one that waits for another makes Lean begin a
thread of about 1 GiB. A theorem here would wait with them and take the compile past its 22 GiB ("failed to create
thread"); so the elaborator pauses until they are done, and from here on elaborates one declaration after another.
-/
example : True := by
  sleep 45000
  trivial

set_option Elab.async false

/-! Effects. -/

/-- How far an effect reaches: it may leave list and line count alone, take the end of a timer, or end a frame. -/
inductive Reach where
  | quiet
  | timer
  | frameEnd
  deriving DecidableEq

/-- A line that keeps the bounds of gap and held run where it moves them (R63). -/
def Line.staysInRange (l l' : Line) : Prop :=
  (l'.gap ≤ 24 ∨ l'.gap = l.gap) ∧ (l'.held ≤ 12 ∨ l'.held = l.held)

/-- A line on which the station has nothing of its own, reached within the bounds and at the same strike count. -/
structure Line.LeftFree (l l' : Line) : Prop where
  range : l.staysInRange l'
  free : l'.sending = none
  strikes : l'.strikes = l.strikes

/-- What becomes of a presence entry outside a boundary: its state stays, becomes ABSENT, or moves where `free` holds, and
its silence counter stays with its state, counts on, or clears. -/
def Peer.mayBecome (free : Prop) (e e' : Peer) : Prop :=
  (e'.state = e.state ∨ e'.state = .absent ∨ free)
  ∧ (e'.silence = 0 ∨ e'.state = e.state ∧ (e'.silence = e.silence ∨ e.state.counts = true ∧ e'.silence ≤ 8))

/-- The moves of the station state that leave frame, outbox and list alone. -/
inductive Station.Moves : Station → Station → Prop
  | beginListen : Moves .start (.listen 0)
  | boundary (st : Station) : Moves st st.boundary
  | firstRoll (t : Nat) : Moves (.joining (.admitted t)) (.joining (.filling 0))
  | roll (t : Nat) : Moves (.joining (.filling t)) (.joining (.filling 0))
  | complete (t : Nat) : Moves (.joining (.filling t)) .active
  | loseStep (t : Nat) (b : Bool) : Moves (.muted t b) (.muted t true)

/-- The station state in which the outbox is empty outside a reset (Table 6-1). -/
def Station.offersNothing : Station → Prop
  | .active => False
  | .joining .asking => False
  | _ => True

/-- What an accepted bulletin, a roll taken or the end of a transfer makes of records and overflow indication. -/
inductive AnnList.Gives (a : AnnList) : List Record → Bool → Prop
  | bulletin (options : Group → GroupOptions) (lossGroup : Group) (filling : Bool) (f : Frame) :
    Gives a (alarmSequence options lossGroup filling f a.records).2
      (overflowAfter (alarmSequence options lossGroup filling f a.records).1
        (removes a.records (alarmSequence options lossGroup filling f a.records).2) a.overflow)
  | roll (pred : Option PointId) (record : Option Record) (rs : List Record)
      (h : takeRecord a.records pred record = some rs) : Gives a rs a.overflow
  | complete (b : Bool) : Gives a a.records (b && decide (a.records.length = Config.listCapacity))

/-- The offers that the station's units make of the outbox; `own` is the station's number, `free` says that nothing of the
station's is on the line, and `sound` that a frame it sends does not name it. -/
inductive Offered (own : StationNo) (sound free : Prop) : (Outbox → Outbox) → Prop
  | point (m : PointMode) (b : Bool) (p : LocalPoint) : Offered own sound free (transitionOffers m b p)
  | group (k : GroupKind) : Offered own sound free fun o => o.groupOffer k
  | loss (n : StationNo) (h : n ≠ own) : Offered own sound free fun o => o.lossOffer n
  | presenceRoll : Offered own sound free Outbox.presenceRollOffer
  | transferRoll (n : StationNo) (h : sound → n ≠ own) (hfree : free) : Offered own sound free fun o => o.transferRollOffer n
  | republish (p : LocalPoint) (q : List PointKind) (hq : q.Nodup) (hfree : free) :
    Offered own sound free fun o => o.republish p q

/-- One small effect of a step; `k` says how far it reaches, and `sound` that a frame the station sends does not name it. -/
inductive Effect (k : Reach) (sound : Prop) (s : State) : State → Prop
  | outer (p : Port) (x : Pins) (tb : Timebase) : Effect k sound s { s with port := p, pins := x, timebase := tb }
  | session (x : Session)
      (hopen : x.phase ≠ .closed →
        s.session.phase ≠ .closed ∨ (isCommissioned s.store = false ∧ s.station.programmable = true))
      (hburn : x.phase = .burning → x.staged.isSome = true) : Effect k sound s { s with session := x }
  | burned (h : s.session.phase = .burning) : Effect k sound s s.completeBurn
  | points (ps : Vector Point 8) (h : ∀ p : LocalPoint, (ps[p]).run ≤ 7 ∨ (ps[p]).run = (s.points[p]).run) :
      Effect k sound s { s with points := ps }
  | buttons (bs : Buttons) (h : ∀ b, (bs.get b).run ≤ 7 ∨ (bs.get b).run = (s.buttons.get b).run) :
      Effect k sound s { s with buttons := bs }
  | presence (pr : Presence) (hq : pr.quiet ≤ 2 ∨ pr.quiet = s.presence.quiet)
      (hp : ∀ n : StationNo,
        (s.presence.peers[n]).mayBecome (n ≠ s.own ∧ s.station.inService = true) (pr.peers[n])) :
      Effect k sound s { s with presence := pr }
  | station (st : Station) (h : s.station.Moves st) : Effect k sound s { s with station := st }
  | records (rs : List Record) (o : Bool) (hk : k = .frameEnd) (hs : s.station.inService = true)
      (h : s.annList.Gives rs o) : Effect k sound s { s with annList := { s.annList with records := rs, overflow := o } }
  | walks (ws : List Walk) (hk : k = .frameEnd) (hs : s.station.inService = true)
      (h : ∀ w ∈ ws, w.target ≠ s.own ∨ ∃ w' ∈ s.annList.walks, w'.target = w.target) :
      Effect k sound s { s with annList := { s.annList with walks := ws } }
  | count (c : Byte) (hk : k = .frameEnd) (hs : s.station.inService = true) : Effect k sound s { s with lineCount := c }
  | line (l : Line) (hs : s.station.inService = true) (hl : s.line.staysInRange l)
      (hsend : l.sending = s.line.sending) (hstrikes : l.strikes = s.line.strikes) : Effect k sound s { s with line := l }
  | start (x : Subject) (l : Line) (hs : s.station.inService = true) (hfree : s.line.sending = none)
      (hx : s.outbox.choice = some x) (hl : s.line.staysInRange l)
      (hsend : l.sending = some (s.assemble x)) (hstrikes : l.strikes = s.line.strikes) :
      Effect k sound s { s with line := l, outbox := s.outbox.launch x }
  | land (l : Line) (hs : s.station.inService = true) (hl : s.line.staysInRange l) (hsend : l.sending = none)
      (hstrikes : l.strikes = s.line.strikes ∨ (l.strikes = s.line.strikes + 1 ∧ l.strikes < 16)) :
      Effect k sound s { s with line := l, outbox := s.outbox.land }
  | withdraw (x : Subject) (hx : x.isJoin = false) : Effect k sound s (s.mapOutbox fun o => o.withdraw x)
  | offer (f : Outbox → Outbox) (h : Offered s.own sound (s.line.sending = none) f) : Effect k sound s (s.offer f)
  | depart (f : Frame) (l : Line) (hk : k = .frameEnd) (hs : s.station.inService = true)
      (hf : s.line.sending = some f) (hkind : f.isJoin = false) (hl : s.line.LeftFree l) :
      Effect k sound s ({ s with line := l }).creditAccepted
  | found (f : Frame) (l : Line) (hk : k = .frameEnd) (hs : s.station.inService = true)
      (hf : s.line.sending = some f) (hkind : f.isJoin = true) (hl : s.line.LeftFree l) :
      Effect k sound s ({ ({ s with line := l }).creditAccepted with lineCount := 1 }).enterActive
  | admitted (f : Frame) (l : Line) (hk : k = .frameEnd) (hs : s.station.inService = true)
      (hf : s.line.sending = some f) (hkind : f.isJoin = true) (hl : s.line.LeftFree l) :
      Effect k sound s ({ s with line := l }).creditAccepted.becomeAdmitted
  | muted (f : Frame) (l : Line) (hk : k = .frameEnd) (hs : s.station.inService = true)
      (hf : s.line.sending = some f) (hl : s.line.staysInRange l) (hfree : l.sending = none)
      (hstrikes : l.strikes = s.line.strikes + 1) (hlimit : 16 ≤ l.strikes) :
      Effect k sound s ({ s with line := l }).enterMuted
  | discord (l : Line) (hs : s.station.inService = true) (hne : k = .frameEnd ∨ s.station ≠ .discord)
      (hl : s.line.LeftFree l ∨ (l = s.line ∧ s.station.offersNothing)) :
      Effect k sound s ({ s with line := l }).enterDiscord
  | joining (l : Line) (r : Reason) (hk : k ≠ .quiet) (hs : s.station.inService = true)
      (hl : s.line.LeftFree l ∨ (l = s.line ∧ s.station.offersNothing)) :
      Effect k sound s (({ s with line := l }).enterJoining r)
  | retry (hk : k ≠ .quiet) (hs : s.station.transferOver = true ∨ ∃ t, s.station = .joining (.filling t)) :
      Effect k sound s s.retryJoin

/-- A chain of small effects. -/
abbrev Effects (k : Reach) (sound : Prop) : State → State → Prop := Relation.ReflTransGen (Effect k sound)
end Sys2Proof.Machine

namespace Sys2Proof.Machine

set_option Elab.async false

open Relation

section Chains

variable {k : Reach} {sound : Prop} {s t : State}

/-! Effects on one block. -/

theorem Line.sending_congr {l l' : Line} (h : l'.frame = l.frame) : l'.sending = l.sending := by
  simp [Line.sending, h]

theorem Line.staysInRange_refl (l : Line) : l.staysInRange l := ⟨.inr rfl, .inr rfl⟩

theorem Line.LeftFree.refl {l : Line} (h : l.sending = none) : l.LeftFree l := ⟨l.staysInRange_refl, h, rfl⟩

theorem Effects.withPort (h : Effects k sound s t) (p : Port) : Effects k sound s { t with port := p } :=
  h.tail (.outer p t.pins t.timebase)

theorem Effects.withTimebase (h : Effects k sound s t) (tb : Timebase) : Effects k sound s { t with timebase := tb } :=
  h.tail (.outer t.port t.pins tb)

theorem effects_foldl {α : Type} {f : State → α → State} (P : State → Prop) (hP : ∀ s x, P s → P (f s x))
    (hf : ∀ s x, P s → Effects k sound s (f s x)) (l : List α) (hs : P s) : Effects k sound s (l.foldl f s) := by
  induction l generalizing s with
  | nil => exact .refl
  | cons x xs ih => exact (hf s x hs).trans (ih (hP s x hs))

theorem Peer.mayBecome_refl (free : Prop) (e : Peer) : e.mayBecome free e := ⟨.inl rfl, .inr ⟨rfl, .inl rfl⟩⟩

theorem effects_setPeer (hs : s.station.inService = true) (n : StationNo) (st : PeerState) :
    Effects k sound s (s.setPeer n st) := by
  refine Effects.withPort (ReflTransGen.single (.presence (s.setPeer n st).presence (.inr (by simp)) fun m => ?_)) _
  rw [State.setPeer_get]
  split
  case isTrue h => exact ⟨.inr (.inr ⟨h.1 ▸ h.2.1, hs⟩), .inl rfl⟩
  case isFalse => exact Peer.mayBecome_refl _ _

theorem effects_clearSilence (n : StationNo) : Effects k sound s (s.clearSilence n) := by
  refine ReflTransGen.single (.presence (s.clearSilence n).presence (.inr (by simp)) fun m => ?_)
  rw [State.clearSilence_get]
  split
  case isTrue h => exact ⟨.inl (by rw [h]), .inl rfl⟩
  case isFalse => exact Peer.mayBecome_refl _ _

theorem effects_putQuiet_zero : Effects k sound s (s.putQuiet 0) :=
  .single (.presence (s.putQuiet 0).presence (.inl (Nat.zero_le 2)) fun _ => Peer.mayBecome_refl _ _)

theorem effects_mapPoint (p : LocalPoint) {f : Point → Point} (h : ∀ pt, (f pt).run = 0 ∨ (f pt).run = pt.run) :
    Effects k sound s (s.mapPoint p f) := by
  refine .single (.points _ fun q => ?_)
  rw [update_get]
  split
  case isTrue hq =>
    subst hq
    exact (h s.points[q]).imp (fun h => h.le.trans (Nat.zero_le 7)) id
  case isFalse => exact .inr rfl

theorem effects_offer {f : Outbox → Outbox} (h : Offered s.own sound (s.line.sending = none) f) :
    Effects k sound s (s.offer f) := .single (.offer f h)

theorem effects_withdraw (x : Subject) (hx : x.isJoin = false) :
    Effects k sound s (s.mapOutbox fun o => o.withdraw x) := .single (.withdraw x hx)

theorem effects_putWalks (hs : s.station.inService = true) {ws : List Walk}
    (h : ∀ w ∈ ws, w.target ≠ s.own ∨ ∃ w' ∈ s.annList.walks, w'.target = w.target) :
    Effects .frameEnd sound s (s.putWalks ws) := .single (.walks ws rfl hs h)

theorem effects_putList (hs : s.station.inService = true) {rs : List Record} {o : Bool} (h : s.annList.Gives rs o) :
    Effects .frameEnd sound s (s.putList rs o) := Effects.withPort (.single (.records rs o rfl hs h)) _

theorem effects_enter {st : Station} (h : s.station.Moves st) : Effects k sound s (s.enter st) :=
  Effects.withPort (.single (.station st h)) _

/-! The presence unit (R124 to R126). -/

theorem effects_noteSender (hs : s.station.inService = true) (n : StationNo) : Effects k sound s (s.noteSender n) := by
  unfold State.noteSender
  split
  case h_1 | h_2 => exact effects_setPeer hs n _
  all_goals exact .refl

theorem effects_markLost (hs : s.station.inService = true) (b : PeerState) (n : StationNo) :
    Effects k sound s (s.markLost b n) := by
  unfold State.markLost
  split
  case h_1 | h_2 | h_3 => exact effects_setPeer hs n _
  all_goals exact .refl

theorem effects_noteTarget (hs : s.station.inService = true) (r : Roll) : Effects k sound s (s.noteTarget r) := by
  unfold State.noteTarget
  split
  · exact (effects_setPeer hs _ _).trans (effects_clearSilence _)
  · exact effects_clearSilence _

theorem effects_noteJoin (hs : s.station.inService = true) (how : Acceptance) (n : StationNo) :
    Effects k sound s (s.noteJoin how n) := by
  have hset (st : PeerState) : Effects k sound s (s.setPeer n st) := effects_setPeer hs n st
  unfold State.noteJoin
  cases how with
  | sender | agreed | steppedJoin => exact hset _
  | muted | filling =>
    dsimp only
    split
    · exact .refl
    · exact hset _

theorem effects_presenceEffects (hs : s.station.inService = true) (how : Acceptance) (f : Frame) :
    Effects k sound s (s.presenceEffects how f) := by
  have hnoted : (s.noteSender f.sender).station.inService = true := by
    rw [State.presenceOnly_station (s.noteSender_presenceOnly _), hs]
  unfold State.presenceEffects
  split
  case h_1 => exact effects_noteJoin hs how _
  case h_2 => exact (effects_noteSender hs _).trans (effects_markLost hnoted _ _)
  case h_3 => exact (effects_noteSender hs _).trans (effects_noteTarget hnoted _)
  all_goals exact effects_noteSender hs _

theorem effects_noteHeard (hs : s.station.inService = true) (f : Frame) : Effects k sound s (s.noteHeard f) := by
  have hset (st : PeerState) : Effects k sound s (s.setPeer f.sender st) := effects_setPeer hs _ st
  unfold State.noteHeard
  split
  · split
    case h_1 => exact hset _
    case h_2 =>
      split
      · exact .refl
      · exact hset _
    all_goals exact .refl
  · exact .refl

theorem effects_hear (hs : s.station.inService = true) (f : Frame) : Effects k sound s (s.hear f) := by
  unfold State.hear
  split
  · exact .refl
  · exact ((effects_clearSilence _).trans (effects_withdraw (.loss f.sender) rfl)).trans (effects_noteHeard (by simpa) f)

theorem effects_markFromLossRecords (hs : s.station.inService = true) :
    Effects k sound s s.markFromLossRecords := by
  refine effects_foldl (fun u => u.station.inService = true) (fun u n hu => ?_) (fun u n hu => ?_) _ hs
  · rwa [State.presenceOnly_station (u.markFromList_presenceOnly n)]
  · unfold State.markFromList
    split
    case h_1 | h_2 =>
      split
      · exact .refl
      · exact effects_setPeer hu _ _
    case h_3 => exact .refl

/-! The points (R143 to R147). -/

theorem requeueSequence_nodup (m : PointMode) (a c : Bool) : (requeueSequence m a c).Nodup := by
  cases m <;> cases a <;> cases c <;> decide

theorem reconcileSequence_nodup (m : PointMode) (a c : Bool) (r : Option RecordState) :
    (reconcileSequence m a c r).Nodup := by
  unfold reconcileSequence
  split <;> decide

theorem effects_republish (hfree : s.line.sending = none) (p : LocalPoint) {q : List PointKind} (hq : q.Nodup) :
    Effects k sound s (s.republish p q) := by
  unfold State.republish
  by_cases hnil : q = []
  · simpa [hnil, State.offer] using ReflTransGen.refl
  · simpa only [hnil, if_false] using effects_offer (.republish p q hq hfree)

theorem effects_requeueWaiting (hfree : s.line.sending = none) : Effects k sound s s.requeueWaiting := by
  unfold State.requeueWaiting
  split
  · refine effects_foldl (fun u => u.line.sending = none) (fun u p hu => ?_) (fun u p hu => ?_) _ hfree
    · rwa [State.pointsOnly_line (u.requeuePoint_pointsOnly p)]
    · unfold State.requeuePoint
      dsimp only
      split
      · have hpoint : Effects k sound u (u.mapPoint p fun x => { x with waiting := false }) :=
          effects_mapPoint p fun _ => .inr rfl
        exact hpoint.trans (effects_republish (by simpa) p (requeueSequence_nodup _ _ _))
      · exact .refl
  · exact .refl

theorem effects_requeueLosses : Effects k sound s s.requeueLosses := by
  refine effects_foldl (fun _ => True) (fun _ _ _ => trivial) (fun u n _ => ?_) _ trivial
  unfold State.requeueLoss
  split
  case isTrue h => exact effects_offer (.loss n h.1)
  case isFalse => exact .refl

theorem effects_afterRemoval (hfree : s.line.sending = none) (removed : Bool) :
    Effects k sound s (s.afterRemoval removed) := by
  unfold State.afterRemoval
  split
  · exact (effects_requeueWaiting hfree).trans effects_requeueLosses
  · exact .refl

theorem effects_reconcile (hfree : s.line.sending = none) : Effects k sound s s.reconcile := by
  refine effects_foldl (fun u => u.line.sending = none) (fun u p hu => ?_) (fun u p hu => ?_) _ hfree
  · rwa [State.pointsOnly_line (u.reconcilePoint_pointsOnly p)]
  · have hpoint : Effects k sound u (u.mapPoint p fun pt => pt.reconciled (u.pointRecord p)) :=
      effects_mapPoint p fun _ => .inr rfl
    exact hpoint.trans (effects_republish (by simpa) p (reconcileSequence_nodup _ _ _ _))

/-! Acceptance (R58). -/

theorem repairWalks_targets {before after : List Record} {ws : List Walk} {w : Walk} (h : w ∈ repairWalks before after ws) :
    ∃ w' ∈ ws, w'.target = w.target := by
  obtain ⟨w', hw', rfl⟩ := List.mem_map.1 h
  exact ⟨w', hw', rfl⟩

theorem advanceWalks_targets {r : Roll} {ws : List Walk} {w : Walk} (h : w ∈ advanceWalks r ws) :
    ∃ w' ∈ ws, w'.target = w.target := by
  unfold advanceWalks at h
  split at h
  · exact ⟨w, List.mem_of_mem_filter h, rfl⟩
  · obtain ⟨w', hw', rfl⟩ := List.mem_map.1 h
    refine ⟨w', hw', ?_⟩
    split
    · split <;> rfl
    · rfl

theorem effects_applyAlarm (hs : s.station.inService = true) (options : Group → GroupOptions) (lossGroup : Group)
    (filling : Bool) (f : Frame) :
    let outcome := alarmSequence options lossGroup filling f s.annList.records
    Effects .frameEnd sound s (s.applyAlarm outcome.1 outcome.2) := by
  intro outcome
  refine Effects.withPort ((effects_putList hs (.bulletin options lossGroup filling f)).trans ?_) _
  refine effects_putWalks (by simpa) fun w hw => .inr ?_
  split at hw
  · exact repairWalks_targets hw
  · exact ⟨w, hw, rfl⟩

theorem effects_reportRaise (how : Acceptance) (f : Frame) (x : RaiseResult) :
    Effects k sound s (s.reportRaise how f x) := by
  unfold State.reportRaise
  split
  · exact effects_mapPoint _ fun pt => .inr (by cases x <;> rfl)
  · exact .refl

theorem effects_discardWalk (hs : s.station.inService = true) (n : StationNo) :
    Effects .frameEnd sound s (s.discardWalk n) :=
  (effects_putWalks hs fun w hw => .inr ⟨w, List.mem_of_mem_filter hw, rfl⟩).trans
    (effects_withdraw (.transferRoll n) rfl)

theorem effects_walkEffects (hs : s.station.inService = true) (how : Acceptance) (f : Frame) :
    Effects .frameEnd sound s (s.walkEffects how f) := by
  unfold State.walkEffects
  split
  case h_1 n _ => exact (effects_discardWalk hs n).trans (effects_withdraw (.loss n) rfl)
  case h_2 => exact (effects_discardWalk hs f.sender).trans (effects_withdraw (.loss f.sender) rfl)
  case h_3 =>
    split
    · exact effects_putWalks hs fun w hw => .inr (advanceWalks_targets hw)
    · exact effects_discardWalk hs _
  case h_4 => exact .refl

theorem effects_enterJoining {l : Line} (r : Reason) (hs : s.station.inService = true)
    (hl : s.line.LeftFree l ∨ (l = s.line ∧ s.station.offersNothing)) (hk : k ≠ .quiet) :
    Effects k sound s (({ s with line := l }).enterJoining r) := .single (.joining l r hk hs hl)

theorem ownLoss_eq (s : State) (how : Acceptance) (f : Frame) :
    s.ownLoss how f = s ∨ s.ownLoss how f = s.enterJoining .lost ∧ f.body = .loss s.own := by
  unfold State.ownLoss
  split
  · exact .inl rfl
  · split
    case isTrue hbody h => exact .inr ⟨rfl, by rw [hbody, h]⟩
    case isFalse => exact .inl rfl
  · exact .inl rfl

theorem effects_walkOffers (hs : s.station.inService = true) (hfree : s.line.sending = none) {how : Acceptance} {f : Frame}
    (hpeer : how = .agreed → f.sender ≠ s.own)
    (htarget : sound → ∀ r, how = .sender → f.body = .transferRoll r → r.target ≠ s.own) :
    Effects .frameEnd sound s (s.walkOffers how f) := by
  unfold State.walkOffers
  split
  case h_1 =>
    have hwalks := effects_putWalks (sound := sound) hs
      (ws := s.annList.walks ++ [{ target := f.sender, cursor := none }]) fun w hw => ?_
    · exact hwalks.trans (effects_offer (.transferRoll f.sender (fun _ => hpeer rfl) hfree))
    · rcases List.mem_append.1 hw with hw | hw
      · exact .inr ⟨w, hw, rfl⟩
      · obtain rfl := List.mem_singleton.1 hw
        exact .inl (hpeer rfl)
  case h_2 r hbody =>
    by_cases hlast : r.last = true
    · simpa [hlast, State.offer] using ReflTransGen.refl
    · rw [Bool.not_eq_true] at hlast
      simpa only [hlast, Bool.false_eq_true, if_false] using
        effects_offer (.transferRoll r.target (fun h => htarget h r rfl hbody) hfree)
  case h_3 => exact .refl

/-- An acceptance, part by part in the order of R58. -/
theorem effects_accept (hs : s.station.inService = true) (hfree : s.line.sending = none) {how : Acceptance} {f : Frame}
    (hpeer : how = .agreed → f.sender ≠ s.own)
    (htarget : sound → ∀ r, how = .sender → f.body = .transferRoll r → r.target ≠ s.own) :
    Effects .frameEnd sound s (s.accept how f) := by
  unfold State.accept
  dsimp only
  set outcome := alarmSequence s.options s.inUse.lossGroup (decide (how = .filling)) f s.annList.records
  have hcount : Effects .frameEnd sound s s.countAccepted := .single (.count _ rfl hs)
  have halarm : Effects .frameEnd sound s (s.countAccepted.applyAlarm outcome.1 outcome.2) :=
    hcount.trans (effects_applyAlarm (s := s.countAccepted) hs s.options s.inUse.lossGroup _ f)
  set s1 := (s.countAccepted.applyAlarm outcome.1 outcome.2).reportRaise how f outcome.1 with hs1
  have h1 : Effects .frameEnd sound s s1 := halarm.trans (effects_reportRaise how f _)
  have hpres := State.presenceEffects_presenceOnly s1 how f
  have h2 := h1.trans (effects_presenceEffects (by simpa [hs1]) how f)
  set s2 := s1.presenceEffects how f with hs2
  have hst2 : s2.station = s.station := by rw [State.presenceOnly_station hpres]; simp [hs1]
  have hline2 : s2.line = s.line := by rw [State.presenceOnly_line hpres]; simp [hs1]
  have hset2 : s2.settings = s.settings := by rw [State.presenceOnly_settings hpres]; simp [hs1]
  have h3 := h2.trans (effects_walkEffects (by rwa [hst2]) how f)
  set s3 := s2.walkEffects how f with hs3
  have hown3 : s3.own = s.own := own_congr (by simp [hs3, hset2])
  have hfree3 : s3.line.sending = none := by simpa [hs3, hline2] using hfree
  have hs3' : s3.station.inService = true := by simpa [hs3, hst2] using hs
  rcases ownLoss_eq s3 how f with h | ⟨h, hbody⟩
  · rw [h]
    have h4 := h3.trans (effects_walkOffers hs3' hfree3 (by rwa [hown3]) (by rwa [hown3]))
    exact h4.trans (effects_afterRemoval (by simpa) _)
  · rw [h]
    have hoffers : (s3.enterJoining .lost).walkOffers how f = s3.enterJoining .lost := by
      unfold State.walkOffers
      split
      case h_1 hb => simp [hb] at hbody
      case h_2 hb => simp [hb] at hbody
      case h_3 => rfl
    rw [hoffers]
    have h4 := h3.trans (effects_enterJoining .lost hs3' (.inl (.refl hfree3)) (by decide))
    exact h4.trans (effects_afterRemoval (by rw [← hfree3]; exact Line.sending_congr (by simp)) _)

end Chains

end Sys2Proof.Machine

namespace Sys2Proof.Machine

set_option Elab.async false

open Relation

section Chains

variable {k : Reach} {sound : Prop} {s t : State}

/-! Joining (R104 to R114). -/

theorem effects_enterActive (h : s.station.Moves .active) : Effects k sound s s.enterActive :=
  (effects_enter h).trans effects_putQuiet_zero

theorem effects_completeTransfer {n : Nat} (hst : s.station = .joining (.filling n)) (hfree : s.line.sending = none)
    (overflow : Bool) : Effects .frameEnd sound s (s.completeTransfer overflow) := by
  have h1 := effects_putList (sound := sound) (by simp [hst, Station.inService]) (.complete (a := s.annList) overflow)
  set s1 := s.putList s.annList.records (overflow && decide (s.annList.records.length = Config.listCapacity)) with hs1
  have h2 := h1.trans (effects_enterActive (by simpa [hs1, hst] using .complete n))
  have h3 := h2.trans (effects_markFromLossRecords (by simp [Station.inService]))
  exact h3.trans (effects_reconcile (by
    rwa [State.presenceOnly_line (State.markFromLossRecords_presenceOnly _), State.enterActive_line]))

theorem effects_takeRoll {n : Nat} (hst : s.station = .joining (.filling n)) (hfree : s.line.sending = none) (r : Roll) :
    Effects .frameEnd sound s (s.takeRoll r) := by
  unfold State.takeRoll
  split
  case h_1 => exact .single (.retry (by decide) (.inr ⟨n, hst⟩))
  case h_2 rs htake =>
    have h1 := effects_putList (sound := sound) (by simp [hst, Station.inService]) (.roll _ _ rs htake)
    have h2 : Effects .frameEnd sound s ((s.putList rs s.annList.overflow).putStation (.joining (.filling 0))) :=
      h1.tail (.station _ (by simpa [hst] using .roll n))
    dsimp only
    split
    · exact h2.trans (effects_completeTransfer rfl (by exact hfree) _)
    · exact h2

theorem effects_takeFirstRoll {n : Nat} (hst : s.station = .joining (.admitted n)) (hfree : s.line.sending = none)
    (f : Frame) (r : Roll) : Effects .frameEnd sound s (s.takeFirstRoll f r) := by
  have hs : s.station.inService = true := by simp [hst, Station.inService]
  have h1 : Effects .frameEnd sound s { s with lineCount := f.count + 1 } := .single (.count _ rfl hs)
  have h2 := h1.trans (effects_presenceEffects (by exact hs) .filling f)
  have honly := State.presenceEffects_presenceOnly { s with lineCount := f.count + 1 } .filling f
  set s2 := ({ s with lineCount := f.count + 1 } : State).presenceEffects .filling f
  have hst2 : s2.station = .joining (.admitted n) := by rw [State.presenceOnly_station honly]; exact hst
  have hline2 : s2.line = s.line := (State.presenceOnly_line honly).trans rfl
  have h3 := h2.trans (effects_enter (st := .joining (.filling 0)) (by rw [hst2]; exact .firstRoll n))
  exact h3.trans (effects_takeRoll rfl (by simpa [hline2]) r)

theorem effects_acceptFilling {n : Nat} (hst : s.station = .joining (.filling n)) (hfree : s.line.sending = none)
    (f : Frame) : Effects .frameEnd sound s (s.acceptFilling f) := by
  have hs : s.station.inService = true := by simp [hst, Station.inService]
  have hother : Effects .frameEnd sound s (s.accept .filling f) := effects_accept hs hfree nofun nofun
  unfold State.acceptFilling
  split
  · split
    · have h1 : Effects .frameEnd sound s s.countAccepted := .single (.count _ rfl hs)
      have honly := State.presenceEffects_presenceOnly s.countAccepted .filling f
      exact (h1.trans (effects_presenceEffects (by exact hs) .filling f)).trans
        (effects_takeRoll (n := n) (by rw [State.presenceOnly_station honly]; exact hst)
          (by rw [State.presenceOnly_line honly]; exact hfree) _)
    · exact hother
  · exact hother

/-! The outcome at the sender (R74 to R78). -/

theorem Line.sending_eq_none {l : Line} (h : l.frame = none) : l.sending = none := by simp [Line.sending, h]

/-- What `void` adds to the line. -/
def Line.strike (l : Line) : Line := { l with strikes := l.strikes + 1 }

theorem effects_void (hs : s.station.inService = true) {f : Frame} (hf : s.line.sending = some f) {l : Line}
    (hl : s.line.LeftFree l) : Effects .frameEnd sound s ({ s with line := l }).void := by
  unfold State.void
  have hcount : Effects .frameEnd sound s (s.mapCounters fun c => { c with ownVoided := countUp c.ownVoided }) :=
    Effects.withPort .refl _
  have hfree : l.strike.sending = none := hl.free
  dsimp only
  split
  case isTrue h =>
    exact hcount.tail (.land l.strike hs hl.range hfree (.inr ⟨by simp [Line.strike, hl.strikes], h⟩))
  case isFalse h =>
    exact hcount.tail (.muted f l.strike rfl hs hf hl.range hfree (by simp [Line.strike, hl.strikes]) (not_lt.1 h))

theorem effects_ownAccepted (hs : s.station.inService = true) {f : Frame} (hf : s.line.sending = some f) {l : Line}
    (hl : s.line.LeftFree l) (hsound : sound → f.body.subject.peer ≠ some s.own) (lone : Bool) :
    Effects .frameEnd sound s (({ s with line := l }).ownAccepted f lone) := by
  have hfree : ({ s with line := l } : State).creditAccepted.line.sending = none := hl.free
  unfold State.ownAccepted
  split
  case h_1 reason d hbody =>
    have hjoin : f.isJoin = true := by simp [Frame.isJoin, hbody]
    split
    · exact ReflTransGen.head (.found f l rfl hs hf hjoin hl) (effects_reconcile hfree)
    · exact .single (.admitted f l rfl hs hf hjoin hl)
  case h_2 hbody =>
    have hjoin : f.isJoin = false := by
      unfold Frame.isJoin
      split
      case h_1 r d h => exact absurd h (hbody r d)
      case h_2 => rfl
    refine ReflTransGen.head (.depart f l rfl hs hf hjoin hl) (effects_accept (by simpa) hfree nofun ?_)
    intro h r _ hroll htarget
    have hown : ({ s with line := l } : State).creditAccepted.own = s.own := own_congr rfl
    exact hsound h (by simpa [hroll, Bulletin.subject, Subject.peer] using htarget.trans hown)

theorem effects_ownOutcome (hs : s.station.inService = true) {f : Frame} (hf : s.line.sending = some f) {l : Line}
    (hl : s.line.LeftFree l) (hsound : sound → f.body.subject.peer ≠ some s.own) (seen : Seen) :
    Effects .frameEnd sound s (({ s with line := l }).ownOutcome f seen) := by
  have hvoid : Effects .frameEnd sound s ({ s with line := l }).void := effects_void hs hf hl
  have haccepted (lone : Bool) := effects_ownAccepted hs hf hl hsound lone
  unfold State.ownOutcome
  split
  · exact hvoid
  split
  · exact haccepted false
  split
  · unfold State.stepped
    split
    · exact .single (.discord l hs (.inl rfl) (.inl hl))
    · exact .single (.joining l _ (by decide) hs (.inl hl))
  split
  · exact hvoid
  · exact haccepted true

theorem runCell_le (run : Nat) (l : Level) : runCell run l ≤ 12 := by
  cases l
  · exact min_le_left _ _
  · exact Nat.zero_le _

theorem runAfter_le {run : Nat} (h : run ≤ 12) (cells : List Level) : runAfter run cells ≤ 12 := by
  induction cells generalizing run with
  | nil => exact h
  | cons c cs ih => exact ih (runCell_le run c)

theorem Line.leftFree_endFrame (l : Line) (x : InFrame) (sl : Slots) : l.LeftFree (l.endFrame x sl) :=
  ⟨⟨.inl (Nat.zero_le _), .inl (runAfter_le (runCell_le _ _) [_, _])⟩, rfl, rfl⟩

theorem Line.sending_of_transmitter {l : Line} {x : InFrame} {f : Frame} (hx : l.frame = some x)
    (hrole : x.role = .transmitter f ∨ x.role = .collided f) : l.sending = some f := by
  rcases hrole with h | h <;> simp [Line.sending, hx, h]

theorem effects_endOwnFrame (hs : s.station.inService = true) {x : InFrame} {f : Frame} (hx : s.line.frame = some x)
    (hrole : x.role = .transmitter f ∨ x.role = .collided f)
    (hsound : sound → f.body.subject.peer ≠ some s.own) (sl : Slots) :
    Effects .frameEnd sound s (s.endOwnFrame x f sl) := by
  have hcount : Effects .frameEnd sound s (s.countVeto x.awaitsVeto) := Effects.withPort .refl _
  exact hcount.trans (effects_ownOutcome (s := s.countVeto x.awaitsVeto) hs (Line.sending_of_transmitter hx hrole)
    (s.line.leftFree_endFrame x sl) hsound _)

/-! The outcome at a receiver (R89 to R97). -/

theorem effects_activeOutcome (hs : s.station.inService = true) (hfree : s.line.sending = none) {f : Frame}
    {drive : Option Slot} {x : Seen} (hpeer : x.accepted = true → f.sender ≠ s.own) :
    Effects .frameEnd sound s (s.activeOutcome f drive x) := by
  have hresync : Effects .frameEnd sound s (s.enterJoining .resync) :=
    effects_enterJoining .resync hs (.inl (.refl hfree)) (by decide)
  unfold State.activeOutcome
  split
  · split
    case isTrue h => exact effects_accept hs hfree (fun _ => hpeer h) nofun
    case isFalse => exact .refl
  · split
    · split
      · exact .refl
      split
      · exact effects_accept hs hfree nofun nofun
      · exact effects_setPeer hs _ _
    split
    · exact hresync
    · exact .refl
  · exact .refl

theorem effects_mutedOutcome (hfree : s.line.sending = none) {timer : Nat} {lost : Bool}
    (hst : s.station = .muted timer lost) (heard : Heard) :
    Effects .frameEnd sound s (s.mutedOutcome timer heard) := by
  have hlose : Effects .frameEnd sound s (s.putStation (.muted timer true)) :=
    .single (.station _ (by rw [hst]; exact .loseStep timer lost))
  unfold State.mutedOutcome
  split
  · split
    · exact effects_accept (by simp [hst, Station.inService]) hfree nofun nofun
    · exact hlose
  · exact hlose

theorem effects_admittedOutcome (hfree : s.line.sending = none) {n : Nat}
    (hst : s.station = .joining (.admitted n)) (f : Frame) (x : Seen) :
    Effects .frameEnd sound s (s.admittedOutcome f x) := by
  unfold State.admittedOutcome
  split
  · split
    · exact effects_takeFirstRoll hst hfree f _
    · exact .refl
  · exact .refl

theorem effects_fillingOutcome (hfree : s.line.sending = none) {n : Nat}
    (hst : s.station = .joining (.filling n)) (f : Frame) (x : Seen) :
    Effects .frameEnd sound s (s.fillingOutcome f x) := by
  unfold State.fillingOutcome
  split
  · split
    · exact effects_acceptFilling hst hfree f
    split
    · exact effects_enterJoining _ (by simp [hst, Station.inService]) (.inl (.refl hfree)) (by decide)
    · exact .refl
  · exact .refl

theorem effects_receiverOutcome (hs : s.station.inService = true) (hfree : s.line.sending = none) {heard : Heard}
    {drive : Option Slot} {x : Seen}
    (hpeer : s.station = .active → ∀ f, heard = .wellFormed f → x.accepted = true → f.sender ≠ s.own) :
    Effects .frameEnd sound s (s.receiverOutcome heard drive x) := by
  unfold State.receiverOutcome
  split
  case h_1 hst => exact effects_activeOutcome hs hfree (hpeer hst _ rfl)
  case h_2 hst =>
    split
    · exact effects_mutedOutcome hfree hst _
    · exact .refl
  case h_3 hst => exact effects_admittedOutcome hfree hst _ _
  case h_4 hst => exact effects_fillingOutcome hfree hst _ _
  case h_5 => exact .refl

theorem effects_endReceivedFrame (hs : s.station.inService = true) (hfree : s.line.sending = none) (x : InFrame)
    (sl : Slots) : Effects .frameEnd sound s (s.endReceivedFrame x sl) := by
  have hl := s.line.leftFree_endFrame x sl
  have h1 : Effects .frameEnd sound s (s.mapLine fun l => l.endFrame x sl) :=
    .single (.line _ hs hl.range (hl.free.trans hfree.symm) rfl)
  unfold State.endReceivedFrame
  dsimp only
  split
  case isTrue => exact h1.tail (.discord (s.line.endFrame x sl) hs (.inl rfl) (.inl (.refl hl.free)))
  case isFalse h =>
    refine h1.trans (effects_receiverOutcome (by exact hs) (by exact hl.free) fun hst f hf hacc hown => h ?_)
    have hst' : s.station = .active := hst
    have hown' : f.sender = s.own := hown
    simp [State.duplicate, hf, hown', hacc, hst', Station.findsDuplicate]

/-! The check (R69, R70) and the ends of the timers. -/

theorem Station.offersNothing_of_timerOver {st : Station} (h : st.timerOver = true) : st.offersNothing := by
  unfold Station.offersNothing
  split
  · exact absurd h (by decide)
  · exact absurd h (by decide)
  · trivial

theorem Station.inService_of_timerOver {st : Station} (h : st.timerOver = true) : st.inService = true := by
  cases st with
  | start => exact absurd h (by decide)
  | uncommissioned c => exact absurd h Bool.false_ne_true
  | _ => rfl

theorem effects_enterJoining_of_timerOver (h : s.station.timerOver = true) (hk : k ≠ .quiet) (r : Reason) :
    Effects k sound s (s.enterJoining r) :=
  effects_enterJoining r (Station.inService_of_timerOver h) (.inr ⟨rfl, Station.offersNothing_of_timerOver h⟩) hk

theorem effects_takeTimerEnd (hk : s.station.timerOver = true → k ≠ .quiet) : Effects k sound s s.takeTimerEnd := by
  unfold State.takeTimerEnd
  split
  case isTrue h =>
    have hover : s.station.timerOver = true := by simp [Station.timerOver, h]
    exact effects_enterJoining_of_timerOver hover (hk hover) _
  split
  case isTrue h => exact .single (.retry (hk (by simp [Station.timerOver, h])) (.inl h))
  split
  case isTrue h =>
    have hover : s.station.timerOver = true := by simp [Station.timerOver, h]
    exact effects_enterJoining_of_timerOver hover (hk hover) _
  case isFalse => exact .refl

theorem takeTimerEnd_frame (s : State) : s.takeTimerEnd.line.frame = s.line.frame := by
  unfold State.takeTimerEnd
  split
  · simp
  split
  · simp
  split <;> simp

theorem Station.inService_takeTimerEnd (hs : s.station.inService = true) : s.takeTimerEnd.station.inService = true := by
  unfold State.takeTimerEnd
  split
  · simp [Station.inService]
  split
  · simp [Station.inService]
  split
  · simp [Station.inService]
  · exact hs

theorem hear_station (s : State) (f : Frame) : (s.hear f).station = s.station := by
  unfold State.hear
  split
  · rfl
  · simp [State.presenceOnly_station (State.noteHeard_presenceOnly _ _)]

theorem hear_line (s : State) (f : Frame) : (s.hear f).line = s.line := by
  unfold State.hear
  split
  · rfl
  · simp [State.presenceOnly_line (State.noteHeard_presenceOnly _ _)]

theorem effects_handOn (hs : s.station.inService = true) (f : Frame) : Effects k sound s (s.handOn f) := by
  unfold State.handOn
  set s1 := s.mapCounters fun c => { c with goodFrames := countUp c.goodFrames }
  have h1 : Effects k sound s s1 := Effects.withPort .refl _
  have h2 : Effects k sound s (s1.hear f) := h1.trans (effects_hear (by exact hs) f)
  dsimp only
  split
  case h_1 n hst =>
    have hst2 : (s1.hear f).station = .listen n := (hear_station s1 f).trans hst
    split
    · exact h2.tail (.discord (s1.hear f).line (by simp [hst2, Station.inService])
        (.inr (by simp [hst2])) (.inr ⟨rfl, by simp [hst2, Station.offersNothing]⟩))
    · exact h2
  case h_2 => exact h2

theorem effects_checkFrame (hs : s.station.inService = true) {x : InFrame} (hx : s.line.frame = some x)
    (cells : List Level) : Effects k sound s (s.checkFrame x cells) := by
  have hline : Effects k sound s (s.recordCheck x cells) := by
    have hheld : runAfter 0 cells ≤ 12 := runAfter_le (Nat.zero_le _) cells
    refine Effects.withPort (.single (.line _ hs (by exact ⟨.inr rfl, .inl hheld⟩) ?_ (by rfl))) _
    simp [Line.sending, hx]
  unfold State.checkFrame
  split
  · exact hline
  · exact hline.trans (effects_handOn (by simpa [State.recordCheck, State.countVeto] using hs) _)

end Chains

end Sys2Proof.Machine

namespace Sys2Proof.Machine

set_option Elab.async false

open Relation

/-- The answer is a next state with the property. -/
def Answers (o : Host.Outcome State Fault Refusal) (P : State → Prop) : Prop := ∃ t, o = .next t ∧ P t

theorem Answers.next {P : State → Prop} {t : State} (h : P t) : Answers (.next t) P := ⟨t, rfl, h⟩

theorem Answers.ite {P : State → Prop} {c : Prop} [Decidable c] {a b : Host.Outcome State Fault Refusal}
    (ha : c → Answers a P) (hb : ¬c → Answers b P) : Answers (if c then a else b) P := by
  split
  · exact ha ‹_›
  · exact hb ‹_›

/-- The answer of a command that acts under a condition and otherwise leaves the state as it stands. -/
theorem Answers.guard {P : State → Prop} {c : Bool} {s t : State} (ht : c = true → P t) (hs : P s) :
    Answers (if c then .next t else .next s) P := Answers.ite (fun h => .next (ht h)) fun _ => .next hs

theorem Answers.mono {P Q : State → Prop} {o : Host.Outcome State Fault Refusal} (h : Answers o P)
    (hpq : ∀ t, P t → Q t) : Answers o Q := h.imp fun t ht => ⟨ht.1, hpq t ht.2⟩

/-- How far a command reaches. -/
def reachOf (c : Instr) (s : State) : Reach :=
  match c with
  | .ownFrameOutcome _ => .frameEnd
  | .receivedFrameOutcome _ => .frameEnd
  | .listenEnd => if s.station.timerOver then .timer else .quiet
  | .transferTimeout => if s.station.timerOver then .timer else .quiet
  | .mutedTimerExpiry => if s.station.timerOver then .timer else .quiet
  | .frameChecked _ => if s.station.timerOver then .timer else .quiet
  | _ => .quiet

section Commands

variable {k : Reach} {sound : Prop} {s : State}

theorem inService_iff : s.inService = true ↔ s.power = .running ∧ s.station.inService = true := by
  simp [State.inService, State.running]

/-! Points, buttons and offers. -/

theorem effects_transition (p : LocalPoint) : Effects k sound s (s.transition p) := by
  have hpoint : Effects k sound s (s.mapPoint p Point.transition) := effects_mapPoint p fun _ => .inl rfl
  exact hpoint.trans (effects_offer (.point _ _ p))

theorem effects_press (g : GroupKind) : Effects k sound s (s.press g) := by
  unfold State.press
  split
  · simpa [State.offer] using ReflTransGen.refl
  · exact effects_offer (.group g)

theorem Buttons.get_put (bs : Buttons) (b c : Button) (e : ButtonEntry) :
    (bs.put b e).get c = if c = b then e else bs.get c := by
  cases b <;> cases c <;> rfl

theorem effects_changeButton (b : Button) : Effects k sound s (s.changeButton b) := by
  have hbutton : Effects k sound s { s with buttons := s.buttons.put b (s.buttons.get b).change } := by
    refine .single (.buttons _ fun c => ?_)
    rw [Buttons.get_put]
    split
    · exact .inl (Nat.zero_le 7)
    · exact .inr rfl
  unfold State.changeButton
  dsimp only
  split
  · split
    · exact hbutton.trans (effects_press _)
    · exact hbutton
  · exact hbutton

theorem effects_offerLossAtLimit {n : StationNo} (hn : n ≠ s.own) : Effects k sound s (s.offerLossAtLimit n) := by
  have hdue : Effects k sound s
      { s with presence := { s.presence with peers := update s.presence.peers n fun e => { e with due := false } } } := by
    refine .single (.presence _ (.inr rfl) fun m => ?_)
    dsimp only
    rw [update_get]
    split
    case isTrue h => subst h; exact ⟨.inl rfl, .inr ⟨rfl, .inl rfl⟩⟩
    case isFalse => exact Peer.mayBecome_refl _ _
  unfold State.offerLossAtLimit
  dsimp only
  split
  · exact hdue.trans (effects_offer (.loss n (by exact hn)))
  · simpa [State.offer] using hdue

theorem effects_offerRollAtLimit : Effects k sound s s.offerRollAtLimit := by
  have hdue : Effects k sound s { s with presence := { s.presence with quietDue := false } } :=
    .single (.presence _ (.inr rfl) fun _ => Peer.mayBecome_refl _ _)
  unfold State.offerRollAtLimit
  split
  · exact hdue.trans (effects_offer .presenceRoll)
  · simpa [State.offer] using hdue

/-! Sampling, ticks and boundaries. -/

theorem Point.sample_run (pt : Point) (c : PointSettings) (a : Bool) :
    (pt.sample c.count a).run ≤ 7 ∨ (pt.sample c.count a).run = pt.run := by
  have hcount : c.count ≤ 8 := c.debounce.isLt
  unfold Point.sample
  split
  · exact .inr rfl
  split
  · exact .inl (Nat.zero_le 7)
  split
  case isTrue h => exact .inl (Nat.le_of_lt_succ (h.trans_le hcount))
  case isFalse => exact .inl (Nat.zero_le 7)

theorem ButtonEntry.sample_run (e : ButtonEntry) (a : Bool) : (e.sample a).run ≤ 7 ∨ (e.sample a).run = e.run := by
  unfold ButtonEntry.sample
  split
  · exact .inr rfl
  split
  · exact .inl (Nat.zero_le 7)
  split
  case isTrue h => exact .inl (Nat.le_of_lt_succ h)
  case isFalse => exact .inl (Nat.zero_le 7)

theorem effects_sampleTick (fields : BitVec 8) (buttons : BitVec 4) :
    Effects k sound s (s.sampleTick fields buttons) := by
  have hpins : Effects k sound s
      { s with timebase := s.timebase.sampled, pins := { s.pins with fields := fields, buttons := buttons } } :=
    .single (.outer _ _ _)
  have hpoints := hpins.tail (.points (s.sampleTick fields buttons).points fun p => ?_)
  · refine hpoints.tail (.buttons (s.sampleTick fields buttons).buttons fun b => ?_)
    change ((if s.inService then sampleButtons buttons s.buttons else s.buttons).get b).run ≤ 7
      ∨ ((if s.inService then sampleButtons buttons s.buttons else s.buttons).get b).run = (s.buttons.get b).run
    split
    · cases b <;> exact ButtonEntry.sample_run _ _
    · exact .inr rfl
  · change ((if s.inService then samplePoints s.inUse fields s.points else s.points)[p]).run ≤ 7
      ∨ ((if s.inService then samplePoints s.inUse fields s.points else s.points)[p]).run = (s.points[p]).run
    split
    · simpa [samplePoints] using Point.sample_run _ _ _
    · exact .inr rfl

theorem Peer.boundary_mayBecome (free : Prop) (e : Peer) : e.mayBecome free e.boundary := by
  unfold Peer.boundary
  split
  case isTrue h => exact ⟨.inl rfl, .inr ⟨rfl, .inr ⟨h, min_le_left _ _⟩⟩⟩
  case isFalse => exact Peer.mayBecome_refl _ _

theorem effects_boundary : Effects k sound s s.boundary := by
  have hpresence : Effects k sound s { s with presence := s.presence.boundary s.isActive } := by
    refine .single (.presence _ ?_ fun n => ?_)
    · unfold Presence.boundary
      dsimp only
      split
      · exact .inl (min_le_left _ _)
      · exact .inr rfl
    · simpa [Presence.boundary] using Peer.boundary_mayBecome _ _
  have hstation := hpresence.tail (.station s.station.boundary (.boundary _))
  exact Effects.withTimebase hstation _

theorem effects_beginListen (hst : s.station = .start) : Effects k sound s s.beginListen := by
  have h1 : Effects k sound s (s.enter (.listen 0)) := effects_enter (by rw [hst]; exact .beginListen)
  have h2 : Effects k sound s { s.enter (.listen 0) with line := { s.line with cellClock := 0 } } :=
    h1.tail (.line _ rfl (by exact ⟨.inr rfl, .inr rfl⟩) rfl rfl)
  exact h2.withTimebase _

/-! The line. -/

theorem Line.readRecessive_staysInRange (l : Line) (n : Nat) : l.staysInRange (l.readRecessive n) := by
  refine ⟨.inl (min_le_left _ _), ?_⟩
  unfold Line.readRecessive
  dsimp only
  split
  · exact .inr rfl
  · exact .inl (Nat.zero_le _)

theorem effects_mapLine (hs : s.station.inService = true) {g : Line → Line} (hrange : s.line.staysInRange (g s.line))
    (hsend : (g s.line).sending = s.line.sending) (hstrikes : (g s.line).strikes = s.line.strikes) :
    Effects k sound s (s.mapLine g) := .single (.line _ hs hrange hsend hstrikes)

theorem effects_startOwn (hs : s.station.inService = true) (hfree : s.line.sending = none) :
    Effects k sound s s.startOwn := by
  unfold State.startOwn
  split
  case h_1 => exact .refl
  case h_2 x hx => exact .single (.start x _ hs hfree hx ⟨.inl (Nat.zero_le _), .inl (Nat.zero_le _)⟩ rfl rfl)

theorem effects_loseArbitration (hs : s.station.inService = true) (x : InFrame) (cell : Nat) :
    Effects k sound s (s.loseArbitration x cell) :=
  .single (.land { s.line with frame := some (x.become cell .receiver) } hs ⟨.inr rfl, .inr rfl⟩ rfl (.inl rfl))

theorem effects_holdLine (hs : s.station.inService = true) : Effects k sound s s.holdLine :=
  Effects.withPort (.single (.land { s.line with gap := 0, held := Config.heldLimit, frame := none } hs
    ⟨.inl (Nat.zero_le _), .inl le_rfl⟩ rfl (.inl rfl))) _

theorem Line.frame_of_counting {l : Line} (h : l.counting = true) : l.frame = none := by
  simpa using (Bool.and_eq_true_iff.1 h).1

end Commands

end Sys2Proof.Machine

namespace Sys2Proof.Machine

set_option Elab.async false

open Relation

/-- A frame on the line that the station sends does not name the station itself. -/
def State.sendsForeign (s : State) : Prop := ∀ f, s.line.sending = some f → f.body.subject.peer ≠ some s.own

section Commands

variable {k : Reach} {sound : Prop} {s t : State}

/-! The service port and the programming session. -/

theorem effects_respond (st : Status) (code : Byte) (fields : List Byte) :
    Effects k sound s (s.respond st code fields) := Effects.withPort .refl _

theorem effects_endUnserved : Effects k sound s s.endUnserved := Effects.withPort .refl _

theorem effects_request {code : Byte} {take : State → State}
    (htake : s.session.phase ≠ .burning → Effects k sound s (take s)) : Effects k sound s (s.request code take) := by
  unfold State.request
  split
  · exact effects_endUnserved
  split
  · exact effects_respond _ _ _
  case isFalse h => exact htake (by simpa [State.sessionBurning] using h)

theorem effects_programming {code : Byte} {take : State → State}
    (htake : s.station.programmable = true → Effects k sound s (take s)) :
    Effects k sound s (s.programming code take) := by
  unfold State.programming
  split
  case isTrue h => exact htake h
  case isFalse => exact effects_respond _ _ _

theorem effects_mapSession {f : Session → Session}
    (hopen : (f s.session).phase ≠ .closed →
      s.session.phase ≠ .closed ∨ (isCommissioned s.store = false ∧ s.station.programmable = true))
    (hburn : (f s.session).phase = .burning → (f s.session).staged.isSome = true) :
    Effects k sound s (s.mapSession f) := .single (.session _ hopen hburn)

theorem effects_openJudged (hs : s.station.programmable = true) (hb : s.session.phase ≠ .burning) :
    Effects k sound s s.openJudged := by
  unfold State.openJudged
  split
  · exact effects_respond _ _ _
  case isFalse hstore =>
    split
    · exact effects_respond _ _ _
    · refine (effects_mapSession (fun _ => .inr ⟨by simpa using hstore, hs⟩) fun h => ?_).trans (effects_respond _ _ _)
      split at h
      · cases h
      · exact absurd h hb
      · exact absurd h hb

theorem effects_stageJudged (cell value : Byte) : Effects k sound s (s.stageJudged cell value) := by
  unfold State.stageJudged
  split
  · exact effects_respond _ _ _
  case isFalse hclosed =>
    split
    · exact (effects_mapSession (fun _ => .inl hclosed) fun _ => rfl).trans (effects_respond _ _ _)
    · exact effects_respond _ _ _

theorem effects_sessionFail : Effects k sound s (s.mapSession Session.fail) := effects_mapSession (fun h => absurd rfl h) nofun

theorem effects_burnJudged : Effects k sound s s.burnJudged := by
  unfold State.burnJudged
  split
  · exact effects_respond _ _ _
  case isFalse hclosed =>
    split
    · exact effects_respond _ _ _
    case isFalse hstaged =>
      split
      · exact effects_sessionFail.trans (effects_respond _ _ _)
      · have hburn : Effects k sound s (s.mapSession fun x => { x with phase := .burning }) :=
          effects_mapSession (fun _ => .inl hclosed) fun _ => by simpa [Option.isSome_iff_ne_none] using hstaged
        exact (hburn.withTimebase _).trans (effects_respond _ _ _)

theorem effects_senseVpp (present : Bool) : Effects k sound s (s.senseVpp present) :=
  .single (.outer s.port _ s.timebase)

theorem effects_pressJudged (button : Byte) : Effects k sound s (s.pressJudged button) := by
  unfold State.pressJudged
  split
  · exact effects_respond _ _ _
  · split
    · exact (effects_press _).trans (effects_respond _ _ _)
    · exact effects_respond _ _ _

theorem effects_acknowledged (mask : Byte) : Effects k sound s (s.acknowledged mask) :=
  (effects_respond _ _ _).withPort _

theorem effects_listJudged (operand : Half) : Effects k sound s (s.listJudged operand) := by
  unfold State.listJudged
  split
  · exact effects_respond _ _ _
  split
  · split <;> exact effects_respond _ _ _
  · exact effects_respond _ _ _

theorem effects_settingsJudged (cell : Byte) : Effects k sound s (s.settingsJudged cell) := by
  unfold State.settingsJudged
  split <;> exact effects_respond _ _ _

/-! Frames. -/

theorem effects_judgeFault {u : State} (h : Effects k sound s t) : Effects k sound s (judgeFault u t) := h.withPort _

theorem execOwnStart_effects (n : Nat) : Answers (execOwnStart n s) (Effects k sound s) := by
  refine .guard (fun h => ?_) .refl
  simp only [Bool.and_eq_true] at h
  obtain ⟨⟨⟨hs, hcounting⟩, -⟩, -⟩ := h
  have hstation := (inService_iff.1 hs).2
  have hfree : s.line.sending = none := Line.sending_eq_none (Line.frame_of_counting hcounting)
  have hread : Effects k sound s (s.mapLine fun l => l.readRecessive n) :=
    effects_mapLine hstation (s.line.readRecessive_staysInRange n) rfl rfl
  exact hread.trans (effects_startOwn hstation hfree)

theorem execAnothersStart_effects (n : Nat) : Answers (execAnothersStart n s) (Effects k sound s) := by
  refine .guard (fun h => ?_) .refl
  simp only [Bool.and_eq_true] at h
  obtain ⟨⟨⟨hs, hcounting⟩, -⟩, -⟩ := h
  refine effects_mapLine (inService_iff.1 hs).2 ⟨.inl (Nat.zero_le _), .inl (Nat.one_le_ofNat)⟩ ?_ rfl
  exact (Line.sending_eq_none (Line.frame_of_counting hcounting)).symm

theorem execDominantCellNotAStart_effects (n : Nat) :
    Answers (execDominantCellNotAStart n s) (Effects k sound s) := by
  refine .guard (fun h => ?_) .refl
  simp only [Bool.and_eq_true, decide_eq_true_eq] at h
  obtain ⟨⟨⟨hs, -⟩, -⟩, hheld⟩ := h
  exact effects_mapLine (inService_iff.1 hs).2 ⟨.inl (Nat.zero_le _), .inl hheld.le⟩ rfl rfl

theorem execArbitrationLost_effects (cell : Fin 8) : Answers (execArbitrationLost cell s) (Effects k sound s) := by
  unfold execArbitrationLost
  split
  · exact .next .refl
  split
  · refine .guard (fun h => ?_) .refl
    simp only [Bool.and_eq_true] at h
    exact effects_loseArbitration (inService_iff.1 h.1.1).2 _ _
  · exact .next .refl
  · exact .next .refl

theorem execCollision_effects (cell : Nat) : Answers (execCollision cell s) (Effects k sound s) := by
  unfold execCollision
  split
  · exact .next .refl
  case h_2 x hx =>
    split
    case h_1 f hrole =>
      refine .guard (fun h => ?_) .refl
      simp only [Bool.and_eq_true] at h
      refine effects_mapLine (inService_iff.1 h.1.1).2 ⟨.inr rfl, .inr rfl⟩ ?_ rfl
      rw [Line.sending_of_transmitter hx (.inl hrole)]
      rfl
    · exact .next .refl
    · exact .next .refl

theorem execFrameChecked_effects (cells : List Level) :
    Answers (execFrameChecked cells s) (Effects (reachOf (.frameChecked cells) s) sound s) := by
  unfold execFrameChecked
  split
  · exact .next .refl
  case h_2 x hx =>
    split
    · exact .next .refl
    · refine .guard (fun h => effects_judgeFault ?_) .refl
      simp only [Bool.and_eq_true] at h
      have hs := (inService_iff.1 h.1).2
      refine (effects_takeTimerEnd fun hover => by simp [reachOf, hover]).trans ?_
      exact effects_checkFrame (Station.inService_takeTimerEnd hs) ((takeTimerEnd_frame s).trans hx) _
    · exact .next .refl

theorem execOwnFrameOutcome_effects (sl : Slots) :
    Answers (execOwnFrameOutcome sl s) (Effects .frameEnd s.sendsForeign s) := by
  have hend {x : InFrame} {f : Frame} (hx : s.line.frame = some x)
      (hrole : x.role = .transmitter f ∨ x.role = .collided f) :
      Answers (if s.inService && !abandonedInSlots s.line x sl then .next (judgeFault s (s.endOwnFrame x f sl)) else .next s)
        (Effects .frameEnd s.sendsForeign s) := by
    refine .guard (fun h => effects_judgeFault ?_) .refl
    simp only [Bool.and_eq_true] at h
    exact effects_endOwnFrame (inService_iff.1 h.1).2 hx hrole (fun hsound => hsound f (Line.sending_of_transmitter hx hrole)) _
  unfold execOwnFrameOutcome
  split
  · exact .next .refl
  case h_2 x hx =>
    split
    · exact .next .refl
    case h_2 f hrole => exact hend hx (.inl hrole)
    case h_3 f hrole => exact hend hx (.inr hrole)

theorem execReceivedFrameOutcome_effects (sl : Slots) :
    Answers (execReceivedFrameOutcome sl s) (Effects .frameEnd sound s) := by
  unfold execReceivedFrameOutcome
  split
  · exact .next .refl
  case h_2 x hx =>
    split
    · exact .next .refl
    case h_2 hrole _ =>
      refine .guard (fun h => effects_judgeFault ?_) .refl
      simp only [Bool.and_eq_true] at h
      have hs := (inService_iff.1 h.1).2
      refine (effects_takeTimerEnd fun _ => by decide).trans ?_
      refine effects_endReceivedFrame (Station.inService_takeTimerEnd hs) ?_ _ _
      simp [Line.sending, takeTimerEnd_frame, hx, hrole]
    · exact .next .refl

/-! Every command that is no reset's. -/

/-- The commands of the resets (R175, R192). -/
def resetCommands : List Instr := [.powerOn, .supplyLost, .pinReset, .resetEnd, .restart]

/-- The next state of every command but a reset's is reached by a chain of effects. -/
theorem exec_effects {c : Instr} (hc : c ∉ resetCommands) (s : State) :
    Answers (exec c s) (Effects (reachOf c s) s.sendsForeign s) := by
  cases c with
  | powerOn | supplyLost | pinReset | resetEnd | restart => exact absurd (by simp [resetCommands]) hc
  | startHoldEnd =>
    refine .guard (fun h => ?_) .refl
    simp only [Bool.and_eq_true, decide_eq_true_eq] at h
    exact effects_beginListen h.2
  | listenEnd =>
    refine .guard (fun h => effects_judgeFault ?_) .refl
    simp only [Bool.and_eq_true] at h
    have hover : s.station.timerOver = true := by simp [Station.timerOver, h.2]
    exact effects_enterJoining_of_timerOver hover (by simp [reachOf, hover]) _
  | mutedTimerExpiry =>
    refine .guard (fun h => effects_judgeFault ?_) .refl
    simp only [Bool.and_eq_true] at h
    have hover : s.station.timerOver = true := by simp [Station.timerOver, h.2]
    exact effects_enterJoining_of_timerOver hover (by simp [reachOf, hover]) _
  | transferTimeout =>
    refine .guard (fun h => effects_judgeFault ?_) .refl
    simp only [Bool.and_eq_true] at h
    exact .single (.retry (by simp [reachOf, Station.timerOver, h.2]) (.inl h.2))
  | sampleTick fields buttons =>
    exact .guard (fun _ => (effects_sampleTick fields buttons).withTimebase _) .refl
  | debouncedTransition p => exact .guard (fun _ => effects_transition p) .refl
  | buttonDebouncedChange b => exact .guard (fun _ => effects_changeButton b) .refl
  | flashPhaseAdvance => exact .guard (fun _ => Effects.withTimebase .refl _) .refl
  | rollIntervalBoundary => exact .guard (fun _ => effects_boundary) .refl
  | silenceLimit n =>
    refine .guard (fun h => ?_) .refl
    simp only [Bool.and_eq_true, decide_eq_true_eq] at h
    exact effects_offerLossAtLimit h.1.2
  | quietCounterLimit => exact .guard (fun _ => effects_offerRollAtLimit) .refl
  | gapFramed =>
    refine .guard (fun h => ?_) .refl
    simp only [Bool.and_eq_true] at h
    exact effects_mapLine (inService_iff.1 h.1.1).2 ⟨.inl le_rfl, .inl (Nat.zero_le _)⟩ rfl rfl
  | ownStart n => exact execOwnStart_effects n
  | anothersStart n => exact execAnothersStart_effects n
  | dominantCellNotAStart n => exact execDominantCellNotAStart_effects n
  | arbitrationLost cell => exact execArbitrationLost_effects cell
  | collision cell => exact execCollision_effects cell
  | lineHeld =>
    refine .guard (fun h => ?_) .refl
    simp only [Bool.and_eq_true] at h
    exact effects_holdLine (inService_iff.1 h.1).2
  | lineHeldEnd =>
    refine .guard (fun h => ?_) .refl
    simp only [Bool.and_eq_true] at h
    exact effects_mapLine (inService_iff.1 h.1).2 ⟨.inl (Nat.zero_le _), .inl (Nat.zero_le _)⟩ rfl rfl
  | frameChecked cells => exact execFrameChecked_effects cells
  | ownFrameOutcome sl => exact execOwnFrameOutcome_effects sl
  | receivedFrameOutcome sl => exact execReceivedFrameOutcome_effects sl
  | burnCompletion =>
    refine .guard (fun h => ?_) .refl
    simp only [State.burning, Bool.and_eq_true, decide_eq_true_eq] at h
    exact .single (.burned h.2)
  | vppLost =>
    refine .guard (fun _ => ?_) (effects_senseVpp false)
    exact Effects.withTimebase ((effects_senseVpp false).trans effects_sessionFail) _
  | truncatedSelection code =>
    refine .ite (fun _ => .next effects_endUnserved) fun _ => ?_
    cases code with
    | none => exact .next (effects_respond _ _ _)
    | some c => exact .guard (fun _ => effects_respond _ _ _) .refl
  | unknownRequest code => exact .guard (fun _ => effects_request fun _ => effects_respond _ _ _) .refl
  | status => exact .ite (fun _ => .next effects_endUnserved) fun _ => .next (effects_respond _ _ _)
  | acknowledge mask => exact .next (effects_request fun _ => effects_acknowledged mask)
  | list operand =>
    exact .ite (fun _ => .next effects_endUnserved) fun _ =>
      .ite (fun _ => .next (effects_respond _ _ _)) fun _ => .next (effects_listJudged operand)
  | presence | points | counters => exact .next (effects_request fun _ => effects_respond _ _ _)
  | clearCounters =>
    exact .next (effects_request fun _ => (Effects.withPort .refl _).trans (effects_respond _ _ _))
  | press button => exact .next (effects_request fun _ => effects_pressJudged button)
  | settings cell => exact .next (effects_request fun _ => effects_settingsJudged cell)
  | openSession vpp =>
    exact .next ((effects_senseVpp vpp).trans (effects_request fun hb =>
      effects_programming fun hs => effects_openJudged hs hb))
  | stage cell value =>
    exact .next (effects_request fun _ => effects_programming fun _ => effects_stageJudged cell value)
  | burn vpp =>
    exact .next ((effects_senseVpp vpp).trans (effects_request fun _ => effects_programming fun _ => effects_burnJudged))
  | close =>
    exact .next (effects_request fun _ => effects_programming fun _ =>
      (effects_mapSession (by exact fun h => absurd rfl h) (by exact nofun)).trans (effects_respond _ _ _))
  | selFallingEdge =>
    have hbegin : Answers (.next s.beginSelection) (Effects (reachOf .selFallingEdge s) s.sendsForeign s) :=
      .next (Effects.withPort .refl _)
    change Answers (execSelFallingEdge s) _
    unfold execSelFallingEdge
    split
    · exact .next .refl
    · exact hbegin
    · exact hbegin

/-! The clock. -/

theorem effects_advanceCell (hs : s.station.inService = true) {u : State} (h : Effects k sound s u) :
    Effects k sound s (s.advanceCell u) := by
  unfold State.advanceCell
  split
  · exact effects_mapLine hs ⟨.inr rfl, .inr rfl⟩ rfl rfl
  · exact h

theorem effects_quietCell (hs : s.station.inService = true) (hx : s.line.frame = none) :
    Effects k sound s s.quietCell := by
  have hread : Effects k sound s (s.mapLine fun l => { l.readRecessive 1 with cellClock := 0 }) :=
    effects_mapLine hs (s.line.readRecessive_staysInRange 1) rfl rfl
  unfold State.quietCell
  dsimp only
  split
  · exact hread.trans (effects_startOwn hs (Line.sending_eq_none hx))
  · exact hread

theorem effects_sentCell (hs : s.station.inService = true) {x : InFrame} {f : Frame} (hx : s.line.frame = some x)
    (hrole : x.role = .transmitter f) : Effects .frameEnd s.sendsForeign s (s.sentCell x f) := by
  unfold State.sentCell
  dsimp only
  split
  · refine effects_mapLine hs ⟨.inr rfl, .inl (runCell_le _ _)⟩ ?_ rfl
    rw [Line.sending_of_transmitter hx (.inl hrole)]
    simp [Line.sending, hrole]
  · exact effects_judgeFault (effects_endOwnFrame hs hx (.inl hrole)
      (fun hsound => hsound f (Line.sending_of_transmitter hx (.inl hrole))) _)

theorem effects_collidedCell (hs : s.station.inService = true) {x : InFrame} {f : Frame} (hx : s.line.frame = some x)
    (hrole : x.role = .collided f) : Effects k sound s (s.collidedCell x) := by
  refine Effects.withPort (effects_mapLine hs ⟨.inr rfl, .inl (Nat.zero_le _)⟩ ?_ rfl) _
  rw [Line.sending_of_transmitter hx (.inr hrole)]
  simp [Line.sending, hrole]

theorem effects_lineClock : Effects .frameEnd s.sendsForeign s s.lineClock := by
  unfold State.lineClock
  split
  · exact .refl
  case isFalse h =>
    have hs : s.station.inService = true := (inService_iff.1 (by simpa using h)).2
    split
    case h_1 hx =>
      split
      · exact effects_advanceCell hs (effects_quietCell hs hx)
      · exact .refl
    case h_2 x hx =>
      split
      case h_1 f hrole => exact effects_advanceCell hs (effects_sentCell hs hx hrole)
      case h_2 => exact .refl
      case h_3 f hrole =>
        split
        · exact effects_advanceCell hs (effects_collidedCell hs hx hrole)
        · exact .refl

theorem effects_burnClock : Effects k sound s s.burnClock := by
  unfold State.burnClock
  split
  case isTrue h =>
    split
    · exact Effects.withTimebase .refl _
    · exact .single (.burned (by simpa using (Bool.and_eq_true_iff.1 h).2))
  case isFalse => exact .refl

theorem effects_tickClock : Effects k sound s s.tickClock := by
  unfold State.tickClock
  split
  · exact Effects.withTimebase .refl _
  · have hclock : Effects k sound s { s with timebase := { s.timebase with clock := 0 } } := Effects.withTimebase .refl _
    unfold State.baseTick State.sampleDivider
    split
    · exact Effects.withTimebase (hclock.trans (effects_sampleTick _ _)) _
    · exact Effects.withTimebase (hclock.withTimebase _) _

theorem effects_dueTicks : Effects k sound s s.dueTicks := by
  have hflash (u : State) : Effects k sound u u.flashDivider := by
    unfold State.flashDivider
    split
    · exact Effects.withTimebase .refl _
    · exact .refl
  have hroll (u : State) : Effects k sound u u.rollDivider := by
    unfold State.rollDivider
    split
    · exact effects_boundary
    · exact .refl
  have hhold (u : State) : Effects k sound u u.holdDivider := by
    unfold State.holdDivider
    split
    case isTrue h => exact effects_beginListen h.1
    case isFalse => exact .refl
  exact ((hflash s).trans (hroll _)).trans (hhold _)

theorem clockPeriod_effects : Effects .frameEnd s.sendsForeign s s.clockPeriod :=
  ((effects_lineClock.trans effects_burnClock).trans effects_tickClock).trans effects_dueTicks

end Commands

/-! Resets and the whole step. -/

/-- The state that a reset's command leaves. -/
inductive Reset (s : State) : State → Prop
  | blocks (w : Power) (hw : w ≠ .running) (p : Port) : Reset s { s.blocksReset with power := w, port := p }
  | startUp (p : Port) (kind : ResetKind) : Reset s (({ s with port := p }).startUp kind)

theorem exec_reset {k : Reach} {sound : Prop} {c : Instr} (hc : c ∈ resetCommands) (s : State) :
    Answers (exec c s) fun t => Reset s t ∨ Effects k sound s t := by
  simp only [resetCommands, List.mem_cons, List.not_mem_nil, or_false] at hc
  rcases hc with rfl | rfl | rfl | rfl | rfl
  · exact .next (.inl (.blocks (.inReset .powerOn) nofun _))
  · exact .next (.inl (.blocks .off nofun s.blocksReset.port))
  · exact .guard (fun _ => .inl (.blocks (.inReset .pin) nofun s.blocksReset.port)) (.inr .refl)
  · change Answers (execResetEnd s) _
    unfold execResetEnd
    split
    · exact .next (.inl (.startUp s.port _))
    · exact .next (.inr .refl)
    · exact .next (.inr .refl)
  · refine .next ?_
    unfold State.request
    split
    · exact .inr effects_endUnserved
    split
    · exact .inr (effects_respond _ _ _)
    · exact .inl (.startUp s.endUnserved.port .restart)

theorem Effect.toFrameEnd {k : Reach} {sound : Prop} {s t : State} (h : Effect k sound s t) :
    Effect .frameEnd sound s t := by
  cases h <;> constructor <;> solve | assumption | decide | exact .inl rfl

theorem Effects.toFrameEnd {k : Reach} {sound : Prop} {s t : State} (h : Effects k sound s t) :
    Effects .frameEnd sound s t := (ReflTransGen.mono fun _ _ => Effect.toFrameEnd) _ _ h

theorem exec_effects_or_reset (c : Instr) (s : State) :
    Answers (exec c s) fun t => Reset s t ∨ Effects .frameEnd s.sendsForeign s t := by
  by_cases hc : c ∈ resetCommands
  · exact exec_reset hc s
  · exact (exec_effects hc s).mono fun _ h => .inr h.toFrameEnd

theorem step_effects_or_reset {s t : State} (h : step s = .next t) :
    ∃ q, Reset { s with pending := q } t ∨ Effects .frameEnd s.sendsForeign { s with pending := q } t := by
  unfold step at h
  split at h
  case h_1 =>
    refine ⟨s.pending, ?_⟩
    have hidle : Answers (idle s) fun t => Reset s t ∨ Effects .frameEnd s.sendsForeign s t := by
      unfold idle
      split
      · split
        · exact exec_effects_or_reset _ s
        · exact .next (.inr clockPeriod_effects)
      · exact .next (.inr .refl)
    obtain ⟨u, hu, hP⟩ := hidle
    obtain rfl : u = t := by simpa [h] using hu.symm
    exact hP
  case h_2 c rest _ =>
    refine ⟨rest, ?_⟩
    obtain ⟨u, hu, hP⟩ := exec_effects_or_reset c { s with pending := rest }
    obtain rfl : u = t := by simpa [h] using hu.symm
    exact hP

theorem Effects.keeps {P : State → Prop} {k : Reach} {sound : Prop}
    (heffect : ∀ s t, P s → Effect k sound s t → P t) {s t : State} (hs : P s) (h : Effects k sound s t) : P t := by
  induction h with
  | refl => exact hs
  | tail _ hstep ih => exact heffect _ _ ih hstep

/-- A law that every effect and every reset keeps is kept by every step; `sound` may be used where the law gives it. -/
theorem step_keeps {P : State → Prop} (sound : Prop) (hsound : ∀ s, P s → sound → s.sendsForeign)
    (hpending : ∀ s q, P s → P { s with pending := q })
    (heffect : ∀ (s t : State) (x : Prop), (sound → x) → P s → Effect .frameEnd x s t → P t)
    (hreset : ∀ s t, P s → Reset s t → P t) {s t : State} (hs : P s) (h : step s = .next t) : P t := by
  obtain ⟨q, hreset' | heffects⟩ := step_effects_or_reset h
  · exact hreset _ _ (hpending s q hs) hreset'
  · exact heffects.keeps (fun u v hu hv => heffect u v _ (hsound s hs) hu hv) (hpending s q hs)

end Sys2Proof.Machine

/-!
The outbox under the effects: what an offer adds and keeps, and where the end of a flight leaves the entries. From these the
flight law (R48, Table 6-1) and the outbox law (R49 to R53, R152).
-/

namespace Sys2Proof.Machine

set_option Elab.async false

/-! Entries that may stand together. -/

/-- The older entry `a` and the newer entry `b` stand together as the outbox law has it. -/
structure Entry.StandsBefore (a b : Entry) : Prop where
  pending : a.inFlight = false → b.inFlight = false → ¬a.subject.clashes b.subject
  older : a.inFlight = true → a.subject.isGroupAction = false → ¬a.subject.clashes b.subject
  newer : b.inFlight = true → ¬a.subject.clashes b.subject
  oldest : b.inFlight = true → ∀ p, b.subject.ofPoint p = true → a.subject.ofPoint p = false

theorem pairwise_of_split {α : Type} {R : α → α → Prop} {l : List α}
    (h : ∀ older x newer, l = older ++ x :: newer → ∀ y ∈ newer, R x y) : l.Pairwise R := by
  induction l with
  | nil => exact .nil
  | cons x xs ih =>
    refine .cons (h [] x xs rfl) (ih fun older y newer hxs => h (x :: older) y newer ?_)
    rw [hxs, List.cons_append]

theorem outboxLaw_iff {s : State} :
    OutboxLaw s ↔ s.outbox.entries.Pairwise Entry.StandsBefore ∧ (∀ e ∈ s.outbox.entries, e.subject.peer ≠ some s.own)
      ∧ ∀ w ∈ s.annList.walks, w.target ≠ s.own := by
  constructor
  · rintro ⟨hwaiting, hflying, hpeers, hwalks⟩
    refine ⟨pairwise_of_split fun older a newer hentries b hb => ?_, hpeers, hwalks⟩
    obtain ⟨between, last, rfl⟩ := List.append_of_mem hb
    have hbefore : a ∈ older ++ a :: between := by simp
    have hsplit : s.outbox.entries = (older ++ a :: between) ++ b :: last := by simp [hentries]
    refine ⟨fun ha hb' => ?_, fun ha hgroup => (hflying _ _ _ hentries ha).2.1 b (by simp) hgroup,
      fun hb' => (hflying _ _ _ hsplit hb').1 a hbefore,
      fun hb' p hp => (hflying _ _ _ hsplit hb').2.2 p hp a hbefore⟩
    rw [Outbox.waiting, hentries, List.pairwise_filter] at hwaiting
    exact (List.pairwise_cons.1 (List.pairwise_append.1 hwaiting).2.1).1 b (by simp) (by simp [ha]) (by simp [hb'])
  · rintro ⟨hstand, hpeers, hwalks⟩
    refine ⟨?_, fun older e newer hentries he => ?_, hpeers, hwalks⟩
    · rw [Outbox.waiting, List.pairwise_filter]
      exact hstand.imp fun h ha hb => h.pending (by simpa using ha) (by simpa using hb)
    · rw [hentries] at hstand
      obtain ⟨-, hrest, hbefore⟩ := List.pairwise_append.1 hstand
      have hnewer := (List.pairwise_cons.1 hrest).1
      have holder (x) (hx : x ∈ older) : x.StandsBefore e := hbefore x hx e (List.mem_cons_self ..)
      exact ⟨fun x hx => (holder x hx).newer he, fun x hx hgroup => (hnewer x hx).older he hgroup,
        fun p hp x hx => (holder x hx).oldest he p hp⟩

theorem standsBefore_pendingEntry {a : Entry} {x : Subject}
    (h : a.subject.clashes x → a.inFlight = true ∧ a.subject.isGroupAction = true) :
    a.StandsBefore (pendingEntry x) := by
  refine ⟨fun ha _ hc => ?_, fun _ hgroup hc => ?_, nofun, nofun⟩
  · simp [(h hc).1] at ha
  · simp [(h hc).2] at hgroup

/-! Offers. -/

@[simp] theorem append_entries (o : Outbox) (x : Subject) : (o.append x).entries = o.entries ++ [pendingEntry x] := rfl

theorem withdraw_sublist (o : Outbox) (x : Subject) : (o.withdraw x).entries.Sublist o.entries := List.filter_sublist

theorem withdraw_inFlight (o : Outbox) (x : Subject) : (o.withdraw x).inFlight = o.inFlight := by
  simp only [Outbox.inFlight, Outbox.withdraw, List.filter_filter]
  refine List.filter_congr fun e _ => ?_
  cases he : e.inFlight <;> simp [isPending, he]

/-- What an offer makes of the entries: it keeps those in flight, keeps the order, and adds pending entries at the newest
end. Where the entries stood as the outbox law has it, the added ones clash with none but a group action in flight. -/
structure Outbox.Grows (own : StationNo) (sound : Prop) (o o' : Outbox) (kept : List Entry) (added : List Subject) :
    Prop where
  entries : o'.entries = kept ++ added.map pendingEntry
  sublist : kept.Sublist o.entries
  inFlight : kept.filter Entry.inFlight = o.inFlight
  noJoin : ∀ x ∈ added, x.isJoin = false
  noOwn : sound → ∀ x ∈ added, x.peer ≠ some own
  apart : added.Pairwise fun x y => ¬x.clashes y
  clear : o.entries.Pairwise Entry.StandsBefore → ∀ e ∈ kept, ∀ x ∈ added,
    e.subject.clashes x → e.inFlight = true ∧ e.subject.isGroupAction = true

section Growth

variable {own : StationNo} {sound : Prop} {o : Outbox}

theorem Outbox.Grows.refl (o : Outbox) : o.Grows own sound o o.entries [] :=
  ⟨by simp, List.Sublist.refl _, rfl, by simp, by simp, .nil, by simp⟩

theorem Outbox.Grows.withdraw (o : Outbox) (x : Subject) :
    o.Grows own sound (o.withdraw x) (o.withdraw x).entries [] :=
  ⟨by simp, withdraw_sublist o x, withdraw_inFlight o x, by simp, by simp, .nil, by simp⟩

theorem Outbox.Grows.append {x : Subject} (hjoin : x.isJoin = false) (hown : sound → x.peer ≠ some own)
    (hclear : o.entries.Pairwise Entry.StandsBefore → ∀ e ∈ o.entries, e.subject.clashes x →
      e.inFlight = true ∧ e.subject.isGroupAction = true) :
    o.Grows own sound (o.append x) o.entries [x] :=
  ⟨rfl, List.Sublist.refl _, rfl, by simpa using hjoin, by simpa using hown, by simp, by simpa using hclear⟩

theorem Outbox.Grows.setOwed {o' : Outbox} {kept : List Entry} {added : List Subject}
    (h : o.Grows own sound o' kept added) (p : LocalPoint) (b : Bool) :
    o.Grows own sound (o'.setOwed p b) kept added := { h with entries := h.entries }

theorem not_isJoin_of_ofPoint {p : LocalPoint} {x : Subject} (h : x.ofPoint p = true) : x.isJoin = false := by
  rcases (ofPoint_eq_true p x).1 h with rfl | rfl <;> rfl

theorem peer_of_ofPoint {p : LocalPoint} {x : Subject} (h : x.ofPoint p = true) : x.peer = none := by
  rcases (ofPoint_eq_true p x).1 h with rfl | rfl <;> rfl

theorem clashes_iff_of_peer_none {x y : Subject} (h : y.peer = none) : x.clashes y ↔ x = y := by
  refine ⟨fun hc => hc.resolve_right fun ⟨hsome, heq⟩ => ?_, .inl⟩
  simp [heq, h] at hsome

theorem PointKind.subject_ofPoint (k : PointKind) (p : LocalPoint) : (k.subject p).ofPoint p = true := by
  cases k <;> simp [PointKind.subject, Subject.ofPoint]

theorem mem_ofPoint {p : LocalPoint} {e : Entry} : e ∈ o.ofPoint p ↔ e ∈ o.entries ∧ e.subject.ofPoint p = true :=
  List.mem_filter

/-- A field point entry is added where its point has none of the kind. -/
theorem Outbox.Grows.appendPoint {p : LocalPoint} {x : Subject} (hx : x.ofPoint p = true)
    (hnone : o.entries.Pairwise Entry.StandsBefore → ∀ e ∈ o.ofPoint p, e.subject ≠ x) :
    o.Grows own sound (o.append x) o.entries [x] := by
  refine .append (not_isJoin_of_ofPoint hx) (fun _ => by simp [peer_of_ofPoint hx]) fun hstand e he hclash => ?_
  rw [clashes_iff_of_peer_none (peer_of_ofPoint hx)] at hclash
  exact absurd hclash (hnone hstand e (mem_ofPoint.2 ⟨he, hclash ▸ hx⟩))

theorem grows_transitionOffer (k : PointKind) (p : LocalPoint) :
    ∃ kept added, o.Grows own sound (o.transitionOffer k p) kept added := by
  unfold Outbox.transitionOffer
  split
  case h_1 hnone =>
    have hnil : o.ofPoint p = [] := List.getLast?_eq_none_iff.1 hnone
    exact ⟨_, _, .appendPoint (k.subject_ofPoint p) (by simp [hnil])⟩
  case h_2 e he =>
    split
    · exact ⟨_, _, .refl o⟩
    split
    case isTrue hne hflies =>
      refine ⟨_, _, .appendPoint (k.subject_ofPoint p) fun hstand x hx => ?_⟩
      obtain ⟨older, hsplit⟩ := List.getLast?_eq_some_iff.1 he
      have hpoint : (o.ofPoint p).Pairwise Entry.StandsBefore := hstand.filter _
      rw [hsplit] at hx hpoint
      rcases List.mem_append.1 hx with hx | hx
      · have hxe := (List.pairwise_append.1 hpoint).2.2 x hx e (by simp)
        have hofPoint {y : Entry} (hy : y ∈ older ++ [e]) : y.subject.ofPoint p = true :=
          (mem_ofPoint.1 (hsplit ▸ hy)).2
        have hfalse := hxe.oldest hflies p (hofPoint (by simp))
        rw [hofPoint (List.mem_append_left _ hx)] at hfalse
        exact absurd hfalse (by decide)
      · obtain rfl := List.mem_singleton.1 hx
        exact hne
    case isFalse => exact ⟨_, _, .withdraw o _⟩

theorem grows_pulseOffer (p : LocalPoint) : ∃ kept added, o.Grows own sound (o.pulseOffer p) kept added := by
  unfold Outbox.pulseOffer
  split
  · exact ⟨_, _, .refl o⟩
  split
  case h_1 hnil =>
    have hfirst : o.Grows own sound (o.append (.raise p)) o.entries [.raise p] :=
      .appendPoint (p := p) (by simp [Subject.ofPoint]) (by simp [hnil])
    refine ⟨o.entries, [.raise p, .ret p], ⟨by simp, .refl _, rfl, by simp [Subject.isJoin], by simp [Subject.peer],
      by simp [Subject.clashes, Subject.peer], fun hstand e he x hx hclash => ?_⟩⟩
    have hpoint : x.ofPoint p = true := by
      rcases (by simpa using hx : x = .raise p ∨ x = .ret p) with rfl | rfl <;> simp [Subject.ofPoint]
    rw [clashes_iff_of_peer_none (peer_of_ofPoint hpoint)] at hclash
    have hmem : e ∈ o.ofPoint p := mem_ofPoint.2 ⟨he, hclash ▸ hpoint⟩
    simp [hnil] at hmem
  case h_2 q b hone =>
    exact ⟨_, _, .appendPoint (p := p) (by simp [Subject.ofPoint]) (by simp [hone])⟩
  case h_3 => exact ⟨_, _, .withdraw o _⟩
  case h_4 => exact ⟨_, _, Outbox.Grows.setOwed (.refl o) p true⟩
  case h_5 => exact ⟨_, _, Outbox.Grows.setOwed (.withdraw o _) p true⟩
  case h_6 => exact ⟨_, _, .refl o⟩

theorem grows_transitionOffers (m : PointMode) (b : Bool) (p : LocalPoint) :
    ∃ kept added, o.Grows own sound (transitionOffers m b p o) kept added := by
  unfold transitionOffers
  split
  · exact grows_transitionOffer _ p
  · split
    · exact grows_pulseOffer p
    · exact grows_transitionOffer _ p
  · exact grows_pulseOffer p
  · exact ⟨_, _, .refl o⟩

theorem GroupKind.subject_isGroupAction (k : GroupKind) : k.subject.isGroupAction = true := by cases k <;> rfl

theorem peer_of_isGroupAction {x : Subject} (h : x.isGroupAction = true) : x.peer = none := by
  rcases (isGroupAction_eq_true x).1 h with rfl | rfl | rfl <;> rfl

theorem grows_groupOffer (k : GroupKind) : ∃ kept added, o.Grows own sound (o.groupOffer k) kept added := by
  unfold Outbox.groupOffer
  split
  · exact ⟨_, _, .refl o⟩
  case isFalse h =>
    have hpeer := peer_of_isGroupAction k.subject_isGroupAction
    refine ⟨_, _, .append (by cases k <;> rfl) (by simp [hpeer]) fun _ e he hclash => ?_⟩
    rw [clashes_iff_of_peer_none hpeer] at hclash
    simp only [List.any_eq_true, not_exists, not_and] at h
    have hpending := h e he
    rw [isPending, hclash, beq_self_eq_true, Bool.true_and] at hpending
    exact ⟨by simpa using hpending, hclash ▸ k.subject_isGroupAction⟩

theorem has_eq_false {x : Subject} (h : ¬o.has x = true) {e : Entry} (he : e ∈ o.entries) : e.subject ≠ x := by
  simp only [Outbox.has, List.any_eq_true, beq_iff_eq, not_exists, not_and] at h
  exact h e he

theorem clashes_loss_iff {x : Subject} {n : StationNo} : x.clashes (.loss n) ↔ x = .loss n ∨ x = .transferRoll n := by
  cases x <;> simp [Subject.clashes, Subject.peer]

theorem clashes_transferRoll_iff {x : Subject} {n : StationNo} :
    x.clashes (.transferRoll n) ↔ x = .loss n ∨ x = .transferRoll n := by
  cases x <;> simp [Subject.clashes, Subject.peer]

theorem grows_lossOffer {n : StationNo} (hn : n ≠ own) :
    ∃ kept added, o.Grows own sound (o.lossOffer n) kept added := by
  unfold Outbox.lossOffer
  split
  · exact ⟨_, _, .refl o⟩
  case isFalse h =>
    simp only [Bool.or_eq_true, not_or] at h
    refine ⟨_, _, .append rfl (fun _ => by simpa [Subject.peer] using hn) fun _ e he hclash => ?_⟩
    rcases clashes_loss_iff.1 hclash with hx | hx
    · exact absurd hx (has_eq_false h.1 he)
    · exact absurd hx (has_eq_false h.2 he)

theorem grows_presenceRollOffer : ∃ kept added, o.Grows own sound o.presenceRollOffer kept added := by
  unfold Outbox.presenceRollOffer
  split
  · exact ⟨_, _, .refl o⟩
  case isFalse h =>
    refine ⟨_, _, .append rfl (by simp [Subject.peer]) fun _ e he hclash => ?_⟩
    rw [clashes_iff_of_peer_none rfl] at hclash
    exact absurd hclash (has_eq_false h he)

theorem grows_transferRollOffer {n : StationNo} (hn : sound → n ≠ own) (hfree : o.inFlight = []) :
    ∃ kept added, o.Grows own sound (o.transferRollOffer n) kept added := by
  unfold Outbox.transferRollOffer
  split
  · exact ⟨_, _, .refl o⟩
  case isFalse h =>
    refine ⟨(o.withdraw (.loss n)).entries, [.transferRoll n], ⟨rfl, withdraw_sublist o _, withdraw_inFlight o _,
      by simp [Subject.isJoin], fun hs => by simpa [Subject.peer] using hn hs, by simp, fun _ e he x hx hclash => ?_⟩⟩
    obtain rfl := List.mem_singleton.1 hx
    rw [withdraw_entries, List.mem_filter] at he
    rcases clashes_transferRoll_iff.1 hclash with hloss | hroll
    · have hflies : e.inFlight = true := by
        cases hflies : e.inFlight
        · simp [← hloss, ← hflies] at he
          simp [he.2] at hflies
        · rfl
      have hmem : e ∈ o.inFlight := List.mem_filter.2 ⟨he.1, hflies⟩
      simp [hfree] at hmem
    · exact absurd hroll (has_eq_false h he.1)

theorem grows_republish (p : LocalPoint) {q : List PointKind} (hq : q.Nodup) (hfree : o.inFlight = []) :
    ∃ kept added, o.Grows own sound (o.republish p q) kept added := by
  have hmem {x : Subject} (hx : x ∈ q.map fun k => k.subject p) : x.ofPoint p = true := by
    obtain ⟨k, -, rfl⟩ := List.mem_map.1 hx
    exact k.subject_ofPoint p
  refine ⟨o.entries.filter fun e => !e.subject.ofPoint p, q.map fun k => k.subject p, ?_⟩
  refine ⟨by simp [Outbox.republish], List.filter_sublist, ?_, fun x hx => not_isJoin_of_ofPoint (hmem hx),
    fun _ x hx => by simp [peer_of_ofPoint (hmem hx)], ?_, fun _ e he x hx hclash => ?_⟩
  · rw [List.filter_comm, show o.entries.filter Entry.inFlight = [] from hfree, List.filter_nil, hfree]
  · rw [List.pairwise_map]
    refine hq.imp fun {a b} hne hclash => hne (PointKind.subject_injective p ?_)
    exact (clashes_iff_of_peer_none (peer_of_ofPoint (b.subject_ofPoint p))).1 hclash
  · rw [clashes_iff_of_peer_none (peer_of_ofPoint (hmem hx))] at hclash
    simp [hclash, hmem hx] at he

/-- Every offer of the station's units grows the outbox. -/
theorem Offered.grows {free : Prop} {f : Outbox → Outbox} (h : Offered own sound free f) (hfree : free → o.inFlight = []) :
    ∃ kept added, o.Grows own sound (f o) kept added := by
  cases h with
  | point m b p => exact grows_transitionOffers m b p
  | group k => exact grows_groupOffer k
  | loss n hn => exact grows_lossOffer hn
  | presenceRoll => exact grows_presenceRollOffer
  | transferRoll n hn hf => exact grows_transferRollOffer hn (hfree hf)
  | republish p q hq hf => exact grows_republish p hq (hfree hf)

/-- At the end of a flight the owed pulse, if any, grows the outbox too (R50). -/
theorem grows_settle (flown : Option Subject) : ∃ kept added, o.Grows own sound (o.settle flown) kept added := by
  unfold Outbox.settle
  split
  case h_1 p =>
    split
    · obtain ⟨kept, added, h⟩ := grows_pulseOffer (own := own) (sound := sound) (o := o.setOwed p false) p
      exact ⟨kept, added, ⟨h.entries, h.sublist, h.inFlight, h.noJoin, h.noOwn, h.apart, h.clear⟩⟩
    · exact ⟨_, _, .refl o⟩
  case h_2 => exact ⟨_, _, .refl o⟩

/-! What growth keeps. -/

section Kept

variable {o' : Outbox} {kept : List Entry} {added : List Subject}

theorem Outbox.Grows.inFlight_eq (h : o.Grows own sound o' kept added) : o'.inFlight = o.inFlight := by
  have hpending : (added.map pendingEntry).filter Entry.inFlight = [] := by simp [List.filter_eq_nil_iff, pendingEntry]
  rw [Outbox.inFlight, h.entries, List.filter_append, h.inFlight, hpending, List.append_nil]

theorem Outbox.Grows.mem (h : o.Grows own sound o' kept added) {e : Entry} (he : e ∈ o'.entries) :
    e ∈ o.entries ∨ ∃ x ∈ added, e = pendingEntry x := by
  rw [h.entries, List.mem_append, List.mem_map] at he
  exact he.imp (fun he => h.sublist.subset he) fun ⟨x, hx, hxe⟩ => ⟨x, hx, hxe.symm⟩

theorem Outbox.Grows.no_join (h : o.Grows own sound o' kept added) (ho : ∀ e ∈ o.entries, e.subject.isJoin = false) :
    ∀ e ∈ o'.entries, e.subject.isJoin = false := by
  intro e he
  rcases h.mem he with he | ⟨x, hx, rfl⟩
  · exact ho e he
  · exact h.noJoin x hx

theorem Outbox.Grows.no_own (h : o.Grows own sound o' kept added) (hsound : sound)
    (ho : ∀ e ∈ o.entries, e.subject.peer ≠ some own) : ∀ e ∈ o'.entries, e.subject.peer ≠ some own := by
  intro e he
  rcases h.mem he with he | ⟨x, hx, rfl⟩
  · exact ho e he
  · exact h.noOwn hsound x hx

theorem Outbox.Grows.stands (h : o.Grows own sound o' kept added) (ho : o.entries.Pairwise Entry.StandsBefore) :
    o'.entries.Pairwise Entry.StandsBefore := by
  rw [h.entries, List.pairwise_append, List.pairwise_map]
  refine ⟨ho.sublist h.sublist, h.apart.imp fun hc => standsBefore_pendingEntry fun hc' => absurd hc' hc, ?_⟩
  intro e he x hx
  obtain ⟨y, hy, rfl⟩ := List.mem_map.1 hx
  exact standsBefore_pendingEntry (h.clear ho e he y hy)

end Kept

end Growth

end Sys2Proof.Machine

namespace Sys2Proof.Machine

set_option Elab.async false

/-- Two splits of a list at the first place of an element begin alike. -/
theorem eq_of_first {α : Type} {a : α} {l l' r r' : List α} (hl : a ∉ l) (hl' : a ∉ l')
    (h : l ++ a :: r = l' ++ a :: r') : l = l' := by
  rcases List.append_eq_append_iff.1 h with ⟨c, rfl, hc⟩ | ⟨c, rfl, hc⟩
  · cases c with
    | nil => exact (List.append_nil l).symm
    | cons b c => exact absurd (by simp [(List.cons.inj hc).1]) hl'
  · cases c with
    | nil => exact List.append_nil l'
    | cons b c => exact absurd (by simp [(List.cons.inj hc).1]) hl

/-! Flights: launching, landing and departing. -/

section Flights

variable {own : StationNo} {sound : Prop} {o : Outbox} {x : Subject}

/-- The one entry in flight among the pending ones. -/
structure Outbox.FliesAt (o : Outbox) (x : Subject) (older newer : List Entry) : Prop where
  entries : o.entries = older ++ ⟨x, true⟩ :: newer
  older : ∀ e ∈ older, e.inFlight = false
  newer : ∀ e ∈ newer, e.inFlight = false

theorem fliesAt_of_inFlight (h : o.inFlight = [⟨x, true⟩]) : ∃ older newer, o.FliesAt x older newer := by
  obtain ⟨older, newer, hentries, holder, -, hnewer⟩ := List.filter_eq_cons_iff.1 h
  refine ⟨older, newer, hentries, fun e he => by simpa using holder e he, fun e he => ?_⟩
  simpa using List.filter_eq_nil_iff.1 hnewer e he

theorem Outbox.FliesAt.inFlight {older newer : List Entry} (h : o.FliesAt x older newer) :
    o.inFlight = [⟨x, true⟩] := by
  have hnone {l : List Entry} (hl : ∀ e ∈ l, e.inFlight = false) : l.filter Entry.inFlight = [] :=
    List.filter_eq_nil_iff.2 fun e he => by simp [hl e he]
  simp [Outbox.inFlight, h.entries, List.filter_append, hnone h.older, hnone h.newer]

/-- The entry that a start takes stands in flight where it stood, the oldest of its field point. -/
theorem launch_at (hfree : o.inFlight = []) (hx : o.choice = some x) :
    ∃ older newer, o.entries = older ++ ⟨x, false⟩ :: newer ∧ (o.launch x).FliesAt x older newer
      ∧ ∀ p, x.ofPoint p = true → ∀ e ∈ older, e.subject.ofPoint p = false := by
  obtain ⟨older, newer, hentries, hlaunch, hfirst⟩ := launchEntry_at (choice_pending hx)
  have hpending (e) (he : e ∈ o.entries) : e.inFlight = false := by
    simpa using List.filter_eq_nil_iff.1 hfree e he
  refine ⟨older, newer, hentries, ⟨hlaunch, fun e he => hpending e (by simp [hentries, he]),
    fun e he => hpending e (by simp [hentries, he])⟩, fun p hp => ?_⟩
  obtain ⟨older', e, newer', hentries', rfl, heligible, -⟩ := choice_split hx
  have hkind : e.subject = .raise p ∨ e.subject = .ret p := (ofPoint_eq_true p _).1 hp
  have hclear := ((eligibleAfter_iff older' e).1 heligible).2 p hkind
  have hpend : e = ⟨e.subject, false⟩ := by
    rw [← hpending e (by simp [hentries'])]
  have hfirst' : (⟨e.subject, false⟩ : Entry) ∉ older' := fun hmem => by
    rcases hkind with hk | hk
    · exact (hclear _ hmem).1 hk
    · exact (hclear _ hmem).2 hk
  rw [hpend] at hentries'
  have holder : older = older' := eq_of_first hfirst hfirst' (hentries.symm.trans hentries')
  subst holder
  exact fun y hy => (ofPoint_eq_false p _).2 (hclear y hy)

/-- The entries as the end of a flight leaves them before the owed pulse: pending in its place, without a newer pending
group action of its kind (R48, R152). -/
def landedEntries (x : Subject) (older newer : List Entry) : List Entry :=
  older ++ ⟨x, false⟩ :: (if x.isGroupAction then newer.filter fun e => !isPending x e else newer)

theorem land_grows {older newer : List Entry} (h : o.FliesAt x older newer) :
    ∃ kept added, Outbox.Grows own sound { o with entries := landedEntries x older newer } o.land kept added := by
  unfold Outbox.land
  rw [h.entries, landEntries_at h.older]
  exact grows_settle _

theorem depart_grows {older newer : List Entry} (h : o.FliesAt x older newer) :
    ∃ kept added, Outbox.Grows own sound { o with entries := older ++ newer } o.depart kept added := by
  have herase : o.entries.eraseP Entry.inFlight = older ++ newer := by
    rw [h.entries, List.eraseP_append_right _ (fun e he => by simp [h.older e he]), List.eraseP_cons_of_pos rfl]
  unfold Outbox.depart
  rw [herase]
  exact grows_settle _

theorem filter_inFlight_eq_nil {l : List Entry} (h : ∀ e ∈ l, e.inFlight = false) : l.filter Entry.inFlight = [] :=
  List.filter_eq_nil_iff.2 fun e he => by simp [h e he]

theorem landedEntries_pending {older newer : List Entry} (h : o.FliesAt x older newer) :
    ∀ e ∈ landedEntries x older newer, e.inFlight = false := by
  intro e he
  rcases List.mem_append.1 he with he | he
  · exact h.older e he
  rcases List.mem_cons.1 he with rfl | he
  · rfl
  · split at he
    · exact h.newer e (List.mem_of_mem_filter he)
    · exact h.newer e he

/-- What landing or departing leaves holds no entry in flight. -/
theorem land_inFlight (h : o.inFlight = [] ∨ ∃ x, o.inFlight = [⟨x, true⟩]) : o.land.inFlight = [] := by
  rcases h with h | ⟨x, h⟩
  · rw [land_of_none fun e he => by simpa using List.filter_eq_nil_iff.1 h e he, h]
  · obtain ⟨older, newer, hat⟩ := fliesAt_of_inFlight h
    obtain ⟨kept, added, hgrows⟩ := land_grows (own := 0) (sound := True) hat
    rw [hgrows.inFlight_eq]
    exact filter_inFlight_eq_nil (landedEntries_pending hat)

theorem depart_inFlight (h : o.inFlight = [⟨x, true⟩]) : o.depart.inFlight = [] := by
  obtain ⟨older, newer, hat⟩ := fliesAt_of_inFlight h
  obtain ⟨kept, added, hgrows⟩ := depart_grows (own := 0) (sound := True) hat
  rw [hgrows.inFlight_eq]
  refine filter_inFlight_eq_nil fun e he => ?_
  exact (List.mem_append.1 he).elim (hat.older e) (hat.newer e)

theorem landedEntries_subjects {older newer : List Entry} (h : o.FliesAt x older newer) {e : Entry}
    (he : e ∈ landedEntries x older newer) : ∃ e' ∈ o.entries, e'.subject = e.subject := by
  rw [h.entries]
  rcases List.mem_append.1 he with he | he
  · exact ⟨e, by simp [he], rfl⟩
  rcases List.mem_cons.1 he with rfl | he
  · exact ⟨⟨x, true⟩, by simp, rfl⟩
  · refine ⟨e, ?_, rfl⟩
    split at he
    · exact List.mem_append_right _ (List.mem_cons_of_mem _ (List.mem_of_mem_filter he))
    · exact List.mem_append_right _ (List.mem_cons_of_mem _ he)

theorem departed_subset {older newer : List Entry} (h : o.FliesAt x older newer) {e : Entry} (he : e ∈ older ++ newer) :
    e ∈ o.entries := by
  rw [h.entries]
  exact (List.mem_append.1 he).elim (List.mem_append_left _) fun he => List.mem_append_right _ (List.mem_cons_of_mem _ he)

/-- A property of subjects that an offer's additions have holds of all that landing leaves. -/
theorem land_no_join (h : o.inFlight = [] ∨ ∃ x, o.inFlight = [⟨x, true⟩])
    (ho : ∀ e ∈ o.entries, e.subject.isJoin = false) : ∀ e ∈ o.land.entries, e.subject.isJoin = false := by
  rcases h with h | ⟨x, h⟩
  · rwa [land_of_none fun e he => by simpa using List.filter_eq_nil_iff.1 h e he]
  · obtain ⟨older, newer, hat⟩ := fliesAt_of_inFlight h
    obtain ⟨kept, added, hgrows⟩ := land_grows (own := 0) (sound := True) hat
    refine hgrows.no_join fun e he => ?_
    obtain ⟨e', he', hsubject⟩ := landedEntries_subjects hat he
    exact hsubject ▸ ho e' he'

theorem depart_no_join (h : o.inFlight = [⟨x, true⟩]) (ho : ∀ e ∈ o.entries, e.subject.isJoin = false) :
    ∀ e ∈ o.depart.entries, e.subject.isJoin = false := by
  obtain ⟨older, newer, hat⟩ := fliesAt_of_inFlight h
  obtain ⟨kept, added, hgrows⟩ := depart_grows (own := 0) (sound := True) hat
  exact hgrows.no_join fun e he => ho e (departed_subset hat he)

/-- Launching, landing and departing keep entries standing together. -/
theorem launch_stands (hfree : o.inFlight = []) (hx : o.choice = some x) (h : o.entries.Pairwise Entry.StandsBefore) :
    (o.launch x).entries.Pairwise Entry.StandsBefore := by
  obtain ⟨older, newer, hentries, hat, holdest⟩ := launch_at hfree hx
  rw [hentries] at h
  rw [hat.entries]
  obtain ⟨holder, hrest, hbefore⟩ := List.pairwise_append.1 h
  obtain ⟨hx', hnewer⟩ := List.pairwise_cons.1 hrest
  refine List.pairwise_append.2 ⟨holder, List.pairwise_cons.2 ⟨fun b hb => ?_, hnewer⟩, fun a ha b hb => ?_⟩
  · have hclear := (hx' b hb).pending rfl (hat.newer b hb)
    refine ⟨nofun, fun _ _ => hclear, fun _ => hclear, fun hflies => ?_⟩
    simp [hat.newer b hb] at hflies
  · rcases List.mem_cons.1 hb with rfl | hb
    · have hclear := (hbefore a ha _ (List.mem_cons_self ..)).pending (hat.older a ha) rfl
      exact ⟨nofun, fun _ _ => hclear, fun _ => hclear, fun _ p hp => holdest p hp a ha⟩
    · exact hbefore a ha b (List.mem_cons_of_mem _ hb)

theorem landedEntries_stands {older newer : List Entry} (hat : o.FliesAt x older newer)
    (h : o.entries.Pairwise Entry.StandsBefore) : (landedEntries x older newer).Pairwise Entry.StandsBefore := by
  rw [hat.entries] at h
  obtain ⟨holder, hrest, hbefore⟩ := List.pairwise_append.1 h
  obtain ⟨hx', hnewer⟩ := List.pairwise_cons.1 hrest
  have hpair {a b : Entry} (hb : b.inFlight = false) (hclear : ¬a.subject.clashes b.subject) : a.StandsBefore b := by
    refine ⟨fun _ _ => hclear, fun _ _ => hclear, fun hf => ?_, fun hf => ?_⟩ <;> simp [hb] at hf
  refine List.pairwise_append.2 ⟨holder, List.pairwise_cons.2 ⟨fun b hb => ?_, ?_⟩, fun a ha b hb => ?_⟩
  · split at hb
    case isTrue hgroup =>
      obtain ⟨hb, hdouble⟩ := List.mem_filter.1 hb
      refine hpair (hat.newer b hb) fun hclash => ?_
      have hpeer : x.peer = none := peer_of_isGroupAction hgroup
      have hsubject : x = b.subject := hclash.resolve_right fun hp => by simp [hpeer] at hp
      simp [isPending, ← hsubject, hat.newer b hb] at hdouble
    case isFalse hgroup => exact hpair (hat.newer b hb) ((hx' b hb).older rfl (by simpa using hgroup))
  · split
    · exact hnewer.filter _
    · exact hnewer
  · rcases List.mem_cons.1 hb with rfl | hb
    · exact hpair rfl ((hbefore a ha _ (List.mem_cons_self ..)).newer rfl)
    · refine hbefore a ha b (List.mem_cons_of_mem _ ?_)
      split at hb
      · exact List.mem_of_mem_filter hb
      · exact hb

end Flights

/-! The flight law (R48, Table 6-1). -/

/-- The frame on the line and the entries in flight agree (R48). -/
def Line.flies (l : Line) (own : StationNo) (flying : List Entry) : Prop :=
  match l.sending with
  | none => flying = []
  | some f => flying = [⟨f.body.subject, true⟩] ∧ f.sender = own

/-- What the outbox may hold by station state (Table 6-1). -/
def Station.allows (st : Station) (es : List Entry) : Prop :=
  match st with
  | .active => ∀ e ∈ es, e.subject.isJoin = false
  | .joining .asking => ∃ r b, es = [⟨.join r, b⟩]
  | _ => es = []

theorem flightLaw_iff {s : State} :
    FlightLaw s ↔ s.line.flies s.own s.outbox.inFlight ∧ s.station.allows s.outbox.entries := Iff.rfl

theorem allows_of_offersNothing {st : Station} {es : List Entry} (h : st.offersNothing) : st.allows es ↔ es = [] := by
  cases st with
  | active => exact h.elim
  | joining phase =>
    cases phase with
    | asking => exact h.elim
    | _ => rfl
  | _ => rfl

theorem flies_none {l : Line} {own : StationNo} {es : List Entry} (h : l.sending = none) :
    l.flies own es ↔ es = [] := by simp [Line.flies, h]

theorem flies_some {l : Line} {own : StationNo} {es : List Entry} {f : Frame} (h : l.sending = some f) :
    l.flies own es ↔ es = [⟨f.body.subject, true⟩] ∧ f.sender = own := by simp [Line.flies, h]

theorem flies_congr {l l' : Line} {own : StationNo} {es : List Entry} (h : l'.sending = l.sending) :
    l'.flies own es ↔ l.flies own es := by simp [Line.flies, h]

theorem flies_one {l : Line} {own : StationNo} {es : List Entry} (h : l.flies own es) :
    es = [] ∨ ∃ x, es = [⟨x, true⟩] := by
  unfold Line.flies at h
  split at h
  · exact .inl h
  · exact .inr ⟨_, h.1⟩

/-- A station that offers nothing has nothing on the line. -/
theorem sending_of_offersNothing {s : State} (h : FlightLaw s) (hst : s.station.offersNothing) :
    s.line.sending = none ∧ s.outbox.entries = [] := by
  obtain ⟨hflies, hallows⟩ := flightLaw_iff.1 h
  rw [allows_of_offersNothing hst] at hallows
  refine ⟨?_, hallows⟩
  cases hs : s.line.sending with
  | none => rfl
  | some f =>
    rw [flies_some hs, Outbox.inFlight, hallows] at hflies
    exact absurd hflies.1 nofun

theorem isJoin_subject (f : Frame) : f.body.subject.isJoin = f.isJoin := by
  unfold Frame.isJoin
  cases f.body <;> rfl

/-- The frame on the line is assembled from an entry of the outbox. -/
theorem sending_mem {s : State} (h : FlightLaw s) {f : Frame} (hf : s.line.sending = some f) :
    s.outbox.inFlight = [⟨f.body.subject, true⟩] ∧ (⟨f.body.subject, true⟩ : Entry) ∈ s.outbox.entries := by
  obtain ⟨hflies, -⟩ := flightLaw_iff.1 h
  rw [flies_some hf] at hflies
  refine ⟨hflies.1, List.mem_of_mem_filter (p := Entry.inFlight) ?_⟩
  rw [show s.outbox.entries.filter Entry.inFlight = _ from hflies.1]
  exact List.mem_singleton.2 rfl

theorem active_of_sending {s : State} (h : FlightLaw s) {f : Frame} (hf : s.line.sending = some f)
    (hkind : f.isJoin = false) : s.station = .active := by
  obtain ⟨-, hmem⟩ := sending_mem h hf
  obtain ⟨-, hallows⟩ := flightLaw_iff.1 h
  unfold Station.allows at hallows
  split at hallows
  case h_1 hst => exact hst
  case h_2 =>
    obtain ⟨r, b, hentries⟩ := hallows
    rw [hentries, List.mem_singleton, Entry.mk.injEq] at hmem
    have hjoin := isJoin_subject f
    rw [hkind, hmem.1] at hjoin
    exact absurd hjoin (by simp [Subject.isJoin])
  case h_3 => simp [hallows] at hmem

theorem asking_of_sending_join {s : State} (h : FlightLaw s) {f : Frame} (hf : s.line.sending = some f)
    (hkind : f.isJoin = true) : s.station = .joining .asking ∧ ∃ r, s.outbox.entries = [⟨.join r, true⟩] := by
  obtain ⟨-, hmem⟩ := sending_mem h hf
  obtain ⟨-, hallows⟩ := flightLaw_iff.1 h
  unfold Station.allows at hallows
  split at hallows
  case h_1 =>
    have hjoin := (isJoin_subject f).symm.trans (hallows _ hmem)
    exact absurd (hkind.symm.trans hjoin) (by decide)
  case h_2 hst =>
    obtain ⟨r, b, hentries⟩ := hallows
    rw [hentries, List.mem_singleton, Entry.mk.injEq] at hmem
    exact ⟨hst, r, by rw [hentries, hmem.2]⟩
  case h_3 => simp [hallows] at hmem

theorem moves_allows {st st' : Station} (h : st.Moves st') {es : List Entry} (hes : st.allows es) : st'.allows es := by
  cases h with
  | beginListen | firstRoll | roll | loseStep => exact hes
  | boundary =>
    cases st with
    | joining phase => cases phase <;> exact hes
    | _ => exact hes
  | complete => obtain rfl : es = [] := hes; exact nofun

theorem assemble_subject (s : State) (x : Subject) : (s.assemble x).body.subject = x := by cases x <;> rfl

theorem land_joins {r : Reason} {b : Bool} {o : Outbox} (h : o.entries = [⟨.join r, b⟩]) :
    o.land.entries = [⟨.join r, false⟩] := by
  cases b <;> simp [Outbox.land, Outbox.flying, h, landEntries, Outbox.settle, Subject.isGroupAction]

theorem depart_join {r : Reason} {o : Outbox} (h : o.entries = [⟨.join r, true⟩]) : o.depart.entries = [] := by
  simp [Outbox.depart, Outbox.flying, h, Outbox.settle]

theorem Station.cases_offers (st : Station) : st = .active ∨ st = .joining .asking ∨ st.offersNothing := by
  unfold Station.offersNothing
  split
  · exact .inl rfl
  · exact .inr (.inl rfl)
  · exact .inr (.inr trivial)

theorem land_allows {st : Station} {o : Outbox} (hone : o.inFlight = [] ∨ ∃ x, o.inFlight = [⟨x, true⟩])
    (h : st.allows o.entries) : st.allows o.land.entries := by
  rcases st.cases_offers with rfl | rfl | hst
  · exact land_no_join hone h
  · obtain ⟨r, b, h⟩ := h
    exact ⟨r, false, land_joins h⟩
  · rw [allows_of_offersNothing hst] at h
    rwa [land_of_none (by simp [h]), allows_of_offersNothing hst]

theorem withdraw_allows {st : Station} {o : Outbox} {x : Subject} (hx : x.isJoin = false)
    (h : st.allows o.entries) : st.allows (o.withdraw x).entries := by
  rcases st.cases_offers with rfl | rfl | hst
  · exact fun e he => h e ((withdraw_sublist o x).subset he)
  · obtain ⟨r, b, h⟩ := h
    have hne : Subject.join r ≠ x := by
      rintro rfl
      cases hx
    exact ⟨r, b, by simp [Outbox.withdraw, h, isPending, hne]⟩
  · rw [allows_of_offersNothing hst] at h ⊢
    simp [Outbox.withdraw, h]

end Sys2Proof.Machine

namespace Sys2Proof.Machine

set_option Elab.async false

section Laws

variable {k : Reach} {sound : Prop} {s t : State}

/-! The flight law. -/

theorem flightLaw_of_free (hsend : t.line.sending = none) (hflies : t.outbox.inFlight = [])
    (hallows : t.station.allows t.outbox.entries) : FlightLaw t :=
  flightLaw_iff.2 ⟨(flies_none hsend).2 hflies, hallows⟩

/-- The line that an entry to DISCORD or JOINING finds carries nothing of the station's own. -/
theorem left_sending (h : FlightLaw s) {l : Line}
    (hl : s.line.LeftFree l ∨ (l = s.line ∧ s.station.offersNothing)) : l.sending = none := by
  rcases hl with hl | ⟨rfl, hst⟩
  · exact hl.free
  · exact (sending_of_offersNothing h hst).1

theorem left_strikes {l : Line} (hl : s.line.LeftFree l ∨ (l = s.line ∧ s.station.offersNothing)) :
    l.strikes = s.line.strikes := by
  rcases hl with hl | ⟨rfl, -⟩
  · exact hl.strikes
  · rfl

theorem retryJoin_entries (h : s.outbox.entries = []) : s.retryJoin.outbox.entries = [⟨.join .retry, false⟩] := by
  simp [State.retryJoin, State.offerJoin, State.isActive, Outbox.joinOffer, h, pendingEntry]

theorem offersNothing_of_retry (hs : s.station.transferOver = true ∨ ∃ t, s.station = .joining (.filling t)) :
    s.station.offersNothing := by
  rcases hs with hs | ⟨t, hs⟩
  · exact Station.offersNothing_of_timerOver (by simp [Station.timerOver, hs])
  · simp [hs, Station.offersNothing]

theorem effect_flightLaw (h : FlightLaw s) (he : Effect k sound s t) : FlightLaw t := by
  obtain ⟨hflies, hallows⟩ := flightLaw_iff.1 h
  cases he with
  | outer | session | burned | points | buttons | presence | records | walks | count => exact h
  | station st hmove => exact flightLaw_iff.2 ⟨hflies, moves_allows hmove hallows⟩
  | line l _ _ hsend => exact flightLaw_iff.2 ⟨(flies_congr hsend).2 hflies, hallows⟩
  | start x l _ hfree hx _ hsend =>
    rw [flies_none hfree] at hflies
    obtain ⟨older, newer, hentries, hat, -⟩ := launch_at hflies hx
    refine flightLaw_iff.2 ⟨(flies_some hsend).2 ⟨by rw [hat.inFlight, assemble_subject], rfl⟩, ?_⟩
    rcases s.station.cases_offers with hst | hst | hst
    · rw [hst] at hallows ⊢
      intro e he
      rw [hat.entries] at he
      rcases List.mem_append.1 he with he | he
      · exact hallows e (by simp [hentries, he])
      rcases List.mem_cons.1 he with rfl | he
      · exact hallows ⟨x, false⟩ (by simp [hentries])
      · exact hallows e (by simp [hentries, he])
    · rw [hst] at hallows ⊢
      obtain ⟨r, b, hone⟩ := hallows
      rw [hone, List.singleton_eq_append_iff] at hentries
      simp only [List.cons.injEq, Entry.mk.injEq, reduceCtorEq, and_false, or_false] at hentries
      obtain ⟨rfl, ⟨rfl, -⟩, rfl⟩ := hentries
      exact ⟨r, true, hat.entries⟩
    · rw [allows_of_offersNothing hst] at hallows
      simp [hallows] at hentries
  | land l _ _ hsend =>
    have hone := flies_one hflies
    exact flightLaw_of_free hsend (land_inFlight hone) (land_allows hone hallows)
  | withdraw x hx =>
    refine flightLaw_iff.2 ⟨?_, withdraw_allows hx hallows⟩
    rwa [State.mapOutbox_outbox, withdraw_inFlight]
  | offer f hf =>
    by_cases hactive : s.station = .active
    · rw [hactive] at hallows
      obtain ⟨kept, added, hgrows⟩ := hf.grows (o := s.outbox) fun hfree => (flies_none hfree).1 hflies
      have hout : (s.offer f).outbox = f s.outbox := if_pos (decide_eq_true hactive : s.isActive = true)
      refine flightLaw_iff.2 ⟨?_, ?_⟩
      · rw [hout, hgrows.inFlight_eq]
        exact hflies
      · rw [hout, State.offer_station, hactive]
        exact hgrows.no_join hallows
    · rwa [State.offer_of_not_active s f (decide_eq_false hactive)]
  | depart f l _ _ hf hkind hl =>
    have hst := active_of_sending h hf hkind
    have hone := (sending_mem h hf).1
    refine flightLaw_of_free hl.free (depart_inFlight hone) ?_
    rw [State.creditAccepted_station, hst]
    exact depart_no_join hone (by rwa [hst] at hallows)
  | found f l _ _ hf hkind hl =>
    obtain ⟨-, r, hentries⟩ := asking_of_sending_join h hf hkind
    have hempty : s.outbox.depart.entries = [] := depart_join hentries
    exact flightLaw_of_free hl.free (by simp [Outbox.inFlight, hempty]) (by simp [hempty, Station.allows])
  | admitted f l _ _ hf hkind hl =>
    obtain ⟨-, r, hentries⟩ := asking_of_sending_join h hf hkind
    have hempty : s.outbox.depart.entries = [] := depart_join hentries
    exact flightLaw_of_free hl.free (by simp [Outbox.inFlight, hempty]) (by simp [hempty, Station.allows])
  | muted f l _ _ _ _ hfree => exact flightLaw_of_free hfree rfl rfl
  | discord l _ _ hl =>
    have hfree := left_sending h hl
    exact flightLaw_of_free hfree rfl rfl
  | joining l r _ _ hl =>
    have hfree := left_sending h hl
    exact flightLaw_of_free hfree rfl ⟨r, false, rfl⟩
  | retry _ hs =>
    have hst := offersNothing_of_retry hs
    obtain ⟨hfree, hentries⟩ := sending_of_offersNothing h hst
    have hout := retryJoin_entries hentries
    refine flightLaw_of_free (by simpa using hfree) ?_ ?_
    · rw [Outbox.inFlight, hout]
      rfl
    · exact ⟨.retry, false, hout⟩

theorem startUp_cases (s : State) (kind : ResetKind) :
    (storeVerdict s.store = none ∧ (s.startUp kind).station = .start ∧ (s.startUp kind).settings = some (settingsOf s.store))
    ∨ ∃ c, storeVerdict s.store = some c ∧ (s.startUp kind).station = .uncommissioned c ∧ (s.startUp kind).settings = none := by
  have hstore : s.blocksReset.store = s.store := rfl
  unfold State.startUp State.readStore
  dsimp only
  rw [hstore]
  cases h : storeVerdict s.store with
  | none => exact .inl ⟨rfl, rfl, rfl⟩
  | some c => exact .inr ⟨c, rfl, rfl, rfl⟩

/-- The blocks that a start-up leaves at their reset values. -/
theorem startUp_blocks (s : State) (kind : ResetKind) :
    s.startUp kind = { s.blocksReset with
      power := .running, station := (s.startUp kind).station, settings := (s.startUp kind).settings,
      port := { s.blocksReset.port with latches := Latches.reset, cause := kind } } := by
  unfold State.startUp State.readStore
  dsimp only
  split <;> rfl

theorem offersNothing_startUp (s : State) (kind : ResetKind) : (s.startUp kind).station.offersNothing := by
  rcases startUp_cases s kind with ⟨-, hst, -⟩ | ⟨c, -, hst, -⟩ <;> rw [hst] <;> trivial

theorem reset_flightLaw (hr : Reset s t) : FlightLaw t := by
  cases hr with
  | blocks => exact flightLaw_of_free rfl rfl rfl
  | startUp p kind =>
    have hst := offersNothing_startUp { s with port := p } kind
    rw [startUp_blocks] at hst ⊢
    exact flightLaw_of_free rfl rfl ((allows_of_offersNothing hst).2 rfl)

/-! The outbox law (R49 to R53, R152). -/

/-- The part of the outbox law that speaks of the entries. -/
def Outbox.Lawful (o : Outbox) (own : StationNo) : Prop :=
  o.entries.Pairwise Entry.StandsBefore ∧ ∀ e ∈ o.entries, e.subject.peer ≠ some own

theorem outboxLaw_iff_lawful :
    OutboxLaw s ↔ s.outbox.Lawful s.own ∧ ∀ w ∈ s.annList.walks, w.target ≠ s.own := by
  rw [outboxLaw_iff, Outbox.Lawful, and_assoc]

theorem Outbox.Grows.lawful {own : StationNo} {o o' : Outbox} {kept : List Entry} {added : List Subject}
    (h : o.Grows own sound o' kept added) (hsound : sound) (ho : o.Lawful own) : o'.Lawful own :=
  ⟨h.stands ho.1, h.no_own hsound ho.2⟩

theorem lawful_of_entries {o : Outbox} {own : StationNo} (h : o.entries = []) : o.Lawful own := by
  simp [Outbox.Lawful, h]

theorem land_lawful {o : Outbox} {own : StationNo} (hone : o.inFlight = [] ∨ ∃ x, o.inFlight = [⟨x, true⟩])
    (h : o.Lawful own) : o.land.Lawful own := by
  rcases hone with hnone | ⟨x, hx⟩
  · rwa [land_of_none fun e he => by simpa using List.filter_eq_nil_iff.1 hnone e he]
  · obtain ⟨older, newer, hat⟩ := fliesAt_of_inFlight hx
    obtain ⟨kept, added, hgrows⟩ := land_grows (own := own) (sound := True) hat
    refine hgrows.lawful trivial ⟨landedEntries_stands hat h.1, fun e he => ?_⟩
    obtain ⟨e', he', hsubject⟩ := landedEntries_subjects hat he
    exact hsubject ▸ h.2 e' he'

theorem depart_lawful {o : Outbox} {own : StationNo} {x : Subject} (hx : o.inFlight = [⟨x, true⟩])
    (h : o.Lawful own) : o.depart.Lawful own := by
  obtain ⟨older, newer, hat⟩ := fliesAt_of_inFlight hx
  obtain ⟨kept, added, hgrows⟩ := depart_grows (own := own) (sound := True) hat
  refine hgrows.lawful trivial ⟨?_, fun e he => h.2 e (departed_subset hat he)⟩
  rw [Outbox.Lawful, hat.entries] at h
  exact h.1.sublist ((List.sublist_cons_self _ _).append_left _)

theorem launch_lawful {o : Outbox} {own : StationNo} {x : Subject} (hfree : o.inFlight = []) (hx : o.choice = some x)
    (h : o.Lawful own) : (o.launch x).Lawful own := by
  refine ⟨launch_stands hfree hx h.1, fun e he => ?_⟩
  obtain ⟨older, newer, hentries, hat, -⟩ := launch_at hfree hx
  rw [hat.entries] at he
  rcases List.mem_append.1 he with he | he
  · exact h.2 e (by simp [hentries, he])
  rcases List.mem_cons.1 he with rfl | he
  · exact h.2 ⟨x, false⟩ (by simp [hentries])
  · exact h.2 e (by simp [hentries, he])

theorem effect_outboxLaw (hsound : sound) (hflight : FlightLaw s) (h : OutboxLaw s) (he : Effect k sound s t) :
    OutboxLaw t := by
  obtain ⟨hlaw, hwalks⟩ := outboxLaw_iff_lawful.1 h
  have hflies := (flightLaw_iff.1 hflight).1
  cases he with
  | outer | session | burned | points | buttons | presence | records | count | station | line => exact h
  | walks ws _ _ hws =>
    refine outboxLaw_iff_lawful.2 ⟨hlaw, fun w hw => ?_⟩
    rcases hws w hw with hne | ⟨w', hw', htarget⟩
    · exact hne
    · exact htarget ▸ hwalks w' hw'
  | start x l _ hfree hx =>
    exact outboxLaw_iff_lawful.2 ⟨launch_lawful ((flies_none hfree).1 hflies) hx hlaw, hwalks⟩
  | land l => exact outboxLaw_iff_lawful.2 ⟨land_lawful (flies_one hflies) hlaw, hwalks⟩
  | withdraw x hx => exact outboxLaw_iff_lawful.2 ⟨(Outbox.Grows.withdraw s.outbox x).lawful trivial hlaw, hwalks⟩
  | offer f hf =>
    refine outboxLaw_iff_lawful.2 ⟨?_, hwalks⟩
    obtain ⟨kept, added, hgrows⟩ := hf.grows (o := s.outbox) fun hfree => (flies_none hfree).1 hflies
    change Outbox.Lawful (if s.isActive then f s.outbox else s.outbox) s.own
    split
    · exact hgrows.lawful hsound hlaw
    · exact hlaw
  | depart f l _ _ hf =>
    exact outboxLaw_iff_lawful.2 ⟨depart_lawful (sending_mem hflight hf).1 hlaw, hwalks⟩
  | found f l _ _ hf => exact outboxLaw_iff_lawful.2 ⟨depart_lawful (sending_mem hflight hf).1 hlaw, hwalks⟩
  | admitted f l _ _ hf => exact outboxLaw_iff_lawful.2 ⟨depart_lawful (sending_mem hflight hf).1 hlaw, hwalks⟩
  | muted | discord => exact outboxLaw_iff_lawful.2 ⟨lawful_of_entries rfl, nofun⟩
  | joining l r =>
    have hentries : (({ s with line := l } : State).enterJoining r).outbox.entries = [⟨.join r, false⟩] := rfl
    refine outboxLaw_iff_lawful.2 ⟨?_, nofun⟩
    rw [Outbox.Lawful, hentries]
    simp [Subject.peer]
  | retry _ hs =>
    obtain ⟨-, hentries⟩ := sending_of_offersNothing hflight (offersNothing_of_retry hs)
    have hout := retryJoin_entries hentries
    refine outboxLaw_iff_lawful.2 ⟨?_, nofun⟩
    rw [Outbox.Lawful, hout]
    simp [Subject.peer]

theorem reset_outboxLaw (hr : Reset s t) : OutboxLaw t := by
  cases hr with
  | blocks => exact outboxLaw_iff_lawful.2 ⟨lawful_of_entries rfl, nofun⟩
  | startUp p kind =>
    rw [startUp_blocks]
    exact outboxLaw_iff_lawful.2 ⟨lawful_of_entries rfl, nofun⟩

theorem sendsForeign_of_laws (hflight : FlightLaw s) (h : OutboxLaw s) : s.sendsForeign := by
  intro f hf
  exact (outboxLaw_iff.1 h).2.1 _ (sending_mem hflight hf).2

/-! The strike law (R79). -/

theorem strikeLaw_of_not_muted (hst : ∀ n b, s.station ≠ .muted n b) (h : s.line.strikes ≤ 15) : StrikeLaw s := by
  unfold StrikeLaw
  split
  case h_1 n b hm => exact absurd hm (hst n b)
  case h_2 => exact h

theorem strikes_of_not_muted (h : StrikeLaw s) (hst : ∀ n b, s.station ≠ .muted n b) : s.line.strikes ≤ 15 := by
  unfold StrikeLaw at h
  split at h
  case h_1 n b hm => exact absurd hm (hst n b)
  case h_2 => exact h

theorem strikesOnLeaving_le (h : StrikeLaw s) : strikesOnLeaving s.station s.line.strikes ≤ 15 := by
  unfold strikesOnLeaving
  split
  · exact Nat.zero_le 15
  case h_2 hst => exact strikes_of_not_muted h fun n b hm => hst n b hm

/-- A station that has a frame on the line is not MUTED. -/
theorem not_muted_of_sending (h : FlightLaw s) {f : Frame} (hf : s.line.sending = some f) (n : Nat) (b : Bool) :
    s.station ≠ .muted n b := by
  intro hst
  have hfree := (sending_of_offersNothing h (by simp [hst, Station.offersNothing])).1
  simp [hf] at hfree

theorem moves_muted {st st' : Station} (h : st.Moves st') : (∃ n b, st = .muted n b) ↔ ∃ n b, st' = .muted n b := by
  cases h with
  | boundary =>
    cases st with
    | joining phase => cases phase <;> simp [Station.boundary]
    | _ => simp [Station.boundary]
  | _ => simp

theorem strikeLaw_iff :
    StrikeLaw s ↔ ((∃ n b, s.station = .muted n b) → s.line.strikes = 16)
      ∧ ((¬∃ n b, s.station = .muted n b) → s.line.strikes ≤ 15) := by
  unfold StrikeLaw
  split
  case h_1 n b hst => simp [hst]
  case h_2 hst =>
    have hnot : ¬∃ n b, s.station = .muted n b := fun ⟨n, b, hm⟩ => hst n b hm
    simp only [hnot, false_imp_iff, true_and, not_false_eq_true, true_imp_iff]

theorem effect_strikeLaw (hflight : FlightLaw s) (h : StrikeLaw s) (he : Effect k sound s t) : StrikeLaw t := by
  cases he with
  | outer | session | burned | points | buttons | presence | records | count | walks | withdraw | offer => exact h
  | station st hmove =>
    rw [strikeLaw_iff] at h ⊢
    rwa [← moves_muted hmove]
  | line l _ _ _ hstrikes =>
    rw [strikeLaw_iff] at h ⊢
    rwa [hstrikes]
  | start x l _ _ _ _ _ hstrikes =>
    rw [strikeLaw_iff] at h ⊢
    rwa [hstrikes]
  | land l _ _ _ hstrikes =>
    rw [strikeLaw_iff] at h ⊢
    change (_ → l.strikes = 16) ∧ (_ → l.strikes ≤ 15)
    refine ⟨fun hm => ?_, fun hm => ?_⟩
    · have := h.1 hm
      omega
    · have := h.2 hm
      omega
  | depart f l _ _ hf _ hl =>
    have hst := not_muted_of_sending hflight hf
    have hle := strikes_of_not_muted h hst
    refine strikeLaw_of_not_muted hst ?_
    have : l.strikes - 1 ≤ 15 := by rw [hl.strikes]; omega
    exact this
  | found f l _ _ hf _ hl =>
    have hle := strikes_of_not_muted h (not_muted_of_sending hflight hf)
    refine strikeLaw_of_not_muted nofun ?_
    have : l.strikes - 1 ≤ 15 := by rw [hl.strikes]; omega
    exact this
  | admitted f l _ _ hf _ hl =>
    have hle := strikes_of_not_muted h (not_muted_of_sending hflight hf)
    refine strikeLaw_of_not_muted nofun ?_
    have : l.strikes - 1 ≤ 15 := by rw [hl.strikes]; omega
    exact this
  | muted f l _ _ hf _ _ hstrikes hlimit =>
    have hle := strikes_of_not_muted h (not_muted_of_sending hflight hf)
    change l.strikes = 16
    omega
  | discord l _ _ hl =>
    refine strikeLaw_of_not_muted nofun ?_
    have hle := strikesOnLeaving_le h
    rwa [← left_strikes hl] at hle
  | joining l r _ _ hl =>
    refine strikeLaw_of_not_muted nofun ?_
    have hle := strikesOnLeaving_le h
    rwa [← left_strikes hl] at hle
  | retry _ hs =>
    refine strikeLaw_of_not_muted nofun ?_
    have hle : s.line.strikes ≤ 15 := by
      refine strikes_of_not_muted h fun n b hm => ?_
      rcases hs with hs | ⟨t, hs⟩
      · exact absurd hs (by simp [hm, Station.transferOver])
      · exact absurd hs (by simp [hm])
    simpa using hle

theorem reset_strikeLaw (hr : Reset s t) : StrikeLaw t := by
  cases hr with
  | blocks => exact strikeLaw_of_not_muted nofun (Nat.zero_le 15)
  | startUp p kind =>
    have hst : ∀ n b, (({ s with port := p } : State).startUp kind).station ≠ .muted n b := by
      rcases startUp_cases { s with port := p } kind with ⟨-, hst, -⟩ | ⟨c, -, hst, -⟩ <;> simp [hst]
    rw [startUp_blocks] at hst ⊢
    exact strikeLaw_of_not_muted hst (Nat.zero_le 15)

end Laws

/-- Settles O5, effect by effect (`effect_flightLaw`). -/
theorem stepKeepsTheFlightLaw : Obligations.StepKeepsTheFlightLaw := by
  intro s t h hstep
  exact step_keeps False (fun _ _ hf => hf.elim) (fun _ _ h => h) (fun _ _ _ _ => effect_flightLaw)
    (fun _ _ _ => reset_flightLaw) h hstep

/-- Settles O6, effect by effect in states that keep both laws (`effect_outboxLaw`). -/
theorem stepKeepsTheOutboxLaw : Obligations.StepKeepsTheOutboxLaw := by
  intro s t hflight houtbox hstep
  refine And.right (a := FlightLaw t) ?_
  exact step_keeps (P := fun s => FlightLaw s ∧ OutboxLaw s) True (fun _ h _ => sendsForeign_of_laws h.1 h.2)
    (fun _ _ h => h) (fun _ _ _ hx h he => ⟨effect_flightLaw h.1 he, effect_outboxLaw (hx trivial) h.1 h.2 he⟩)
    (fun _ _ _ hr => ⟨reset_flightLaw hr, reset_outboxLaw hr⟩) ⟨hflight, houtbox⟩ hstep

/-- Settles O8, effect by effect in states that keep the flight law (`effect_strikeLaw`). -/
theorem stepKeepsTheStrikeLaw : Obligations.StepKeepsTheStrikeLaw := by
  intro s t hflight hstrike hstep
  refine And.right (a := FlightLaw t) ?_
  exact step_keeps (P := fun s => FlightLaw s ∧ StrikeLaw s) False (fun _ _ hf => hf.elim)
    (fun _ _ h => h) (fun _ _ _ _ h he => ⟨effect_flightLaw h.1 he, effect_strikeLaw h.1 h.2 he⟩)
    (fun _ _ _ hr => ⟨reset_flightLaw hr, reset_strikeLaw hr⟩) ⟨hflight, hstrike⟩ hstep

end Sys2Proof.Machine

/-!
The list law (R4, R13), the presence law (R122, R127, R129), the range law (R63, R79, R100, R134, R149, R177), the session law
(R167 to R170) and the silent law (R18, R63, R83, R122, R163), and what every step leaves of the settings store (R162).
-/

namespace Sys2Proof.Machine

set_option Elab.async false

section Laws

variable {k : Reach} {sound : Prop} {s t : State}

/-! The list law. -/

theorem alarmSequence_refused {options : Group → GroupOptions} {lossGroup : Group} {filling : Bool} {f : Frame}
    {rs : List Record} (h : (alarmSequence options lossGroup filling f rs).1 = .refused) :
    (alarmSequence options lossGroup filling f rs).2 = rs ∧ 64 ≤ rs.length := by
  have hraise (p : PointId) (g : Group) (h : (raiseRecords options filling p g rs).1 = .refused) :
      (raiseRecords options filling p g rs).2 = rs ∧ 64 ≤ rs.length := by
    unfold raiseRecords at h ⊢
    split at h
    · cases h
    split at h
    · cases h
    split at h
    · cases h
    case isFalse hholds hfill hlen =>
      rw [if_neg hholds, if_neg hfill, if_neg hlen]
      exact ⟨rfl, not_lt.1 hlen⟩
  unfold alarmSequence at h ⊢
  split at h
  · exact hraise _ _ h
  · exact hraise _ _ h
  all_goals cases h

theorem listLaw_alarmSequence {a : AnnList} (ha : ListLaw a) (options : Group → GroupOptions) (lossGroup : Group)
    (filling : Bool) (f : Frame) :
    let outcome := alarmSequence options lossGroup filling f a.records
    ListLaw { a with
      records := outcome.2, overflow := overflowAfter outcome.1 (removes a.records outcome.2) a.overflow } := by
  intro outcome
  obtain ⟨hlen, hnodup, hover⟩ := ha
  have hrefused : outcome.1 = .refused → outcome.2 = a.records ∧ 64 ≤ a.records.length := alarmSequence_refused
  have hoverflow (hadd : outcome.2.length ≤ a.records.length ∨ a.records.length < 64) :
      overflowAfter outcome.1 (removes a.records outcome.2) a.overflow = true → outcome.2.length = 64 := by
    unfold overflowAfter
    split
    case isTrue h => obtain ⟨heq, hge⟩ := hrefused h; intro; rw [heq]; omega
    split
    · exact nofun
    case isFalse hremoves =>
      intro hov
      have := hover hov
      simp only [removes, decide_eq_true_eq] at hremoves
      omega
  rcases alarmSequence_cases options lossGroup filling f a.records with ⟨g, hg, hrecords⟩ | ⟨p, g, hholds, -, hlt, hadd⟩
  · have hle : outcome.2.length ≤ a.records.length := hrecords ▸ List.length_filterMap_le ..
    refine ⟨hle.trans hlen, ?_, hoverflow (.inl hle)⟩
    rw [show outcome.2 = _ from hrecords]
    exact hnodup.sublist (filterMap_ids_sublist hg _)
  · have hrecords : outcome.2 = a.records ++ [newRecord options p g a.records] := congrArg Prod.snd hadd
    refine ⟨?_, ?_, hoverflow (.inr hlt)⟩
    · rw [hrecords, List.length_append]
      exact hlt
    · have hnew : p ∉ a.records.map Record.id := fun hp => by
        obtain ⟨r, hr, hid⟩ := List.mem_map.1 hp
        simp [(holds_iff _ _).2 ⟨r, hr, hid⟩] at hholds
      rw [hrecords, List.map_append]
      exact List.nodup_append.2 ⟨hnodup, List.nodup_singleton _, fun x hx y hy hxy => hnew (by
        obtain rfl : y = p := by simpa [newRecord] using hy
        exact hxy ▸ hx)⟩

theorem insertAfter_perm {p : PointId} {x : Record} {rs : List Record} (h : holds rs p = true) :
    (insertAfter p x rs).Perm (x :: rs) := by
  induction rs with
  | nil => simp [holds] at h
  | cons r rest ih =>
    unfold insertAfter
    split
    · exact List.Perm.swap x r rest
    case isFalse hne =>
      have hrest : holds rest p = true := by simpa [holds, hne] using h
      exact ((ih hrest).cons r).trans (.swap x r rest)

/-- A roll's record replaces its point's record in place, or is a new one in a list that is not full. -/
theorem takeRecord_some {rs rs' : List Record} {pred : Option PointId} {record : Option Record}
    (h : takeRecord rs pred record = some rs') :
    rs'.map Record.id = rs.map Record.id
      ∨ ∃ x, holds rs x.id = false ∧ rs.length < 64 ∧ rs'.Perm (x :: rs) := by
  unfold takeRecord at h
  split at h
  · obtain rfl := Option.some.inj h
    exact .inl rfl
  case h_2 x =>
    split at h
    · obtain rfl := Option.some.inj h
      refine .inl ?_
      rw [List.map_map]
      refine List.map_congr_left fun r _ => ?_
      dsimp only [Function.comp]
      split
      case isTrue hid => exact hid.symm
      case isFalse => rfl
    case isFalse hholds =>
      split at h
      case isFalse => cases h
      case isTrue hlt =>
        refine .inr ⟨x, by simpa using hholds, hlt, ?_⟩
        split at h
        · obtain rfl := Option.some.inj h
          exact .refl _
        · split at h
          case isTrue hpred =>
            obtain rfl := Option.some.inj h
            exact insertAfter_perm hpred
          case isFalse => cases h

theorem listLaw_takeRecord {a : AnnList} (ha : ListLaw a) {pred : Option PointId} {record : Option Record}
    {rs : List Record} (h : takeRecord a.records pred record = some rs) : ListLaw { a with records := rs } := by
  obtain ⟨hlen, hnodup, hover⟩ := ha
  rcases takeRecord_some h with hids | ⟨x, hholds, hlt, hperm⟩
  · have hlength : rs.length = a.records.length := by simpa using congrArg List.length hids
    exact ⟨hlength ▸ hlen, hids ▸ hnodup, fun hov => hlength.trans (hover hov)⟩
  · refine ⟨?_, ?_, fun hov => ?_⟩
    · rw [hperm.length_eq]
      exact hlt
    · rw [(hperm.map Record.id).nodup_iff, List.map_cons, List.nodup_cons]
      refine ⟨fun hx => ?_, hnodup⟩
      obtain ⟨r, hr, hid⟩ := List.mem_map.1 hx
      simp [(holds_iff _ _).2 ⟨r, hr, hid⟩] at hholds
    · have := hover hov
      omega

theorem gives_listLaw {a : AnnList} (ha : ListLaw a) {rs : List Record} {o : Bool} (h : a.Gives rs o) :
    ListLaw { a with records := rs, overflow := o } := by
  cases h with
  | bulletin options lossGroup filling f => exact listLaw_alarmSequence ha options lossGroup filling f
  | roll pred record rs h => exact listLaw_takeRecord ha h
  | complete b =>
    refine ⟨ha.1, ha.2.1, fun h => ?_⟩
    simp only [Bool.and_eq_true, decide_eq_true_eq] at h
    exact h.2

theorem listLaw_nil {a : AnnList} (h : a.records = []) (ho : a.overflow = false) : ListLaw a := by
  simp [ListLaw, h, ho]

theorem effect_listLaw (h : ListLaw s.annList) (he : Effect k sound s t) : ListLaw t.annList := by
  cases he with
  | records rs o _ _ hg => exact gives_listLaw h hg
  | joining | retry => exact listLaw_nil rfl rfl
  | _ => exact h

theorem reset_listLaw (hr : Reset s t) : ListLaw t.annList := by
  cases hr with
  | blocks => exact listLaw_nil rfl rfl
  | startUp =>
    rw [startUp_blocks]
    exact listLaw_nil rfl rfl

/-! The presence law. -/

/-- What the presence law asks of an entry. -/
def Peer.Lawful (e : Peer) : Prop := e.silence ≤ 8 ∧ (e.state.counts = false → e.silence = 0)

theorem Peer.Lawful.mayBecome {free : Prop} {e e' : Peer} (h : e.Lawful) (hb : e.mayBecome free e') : e'.Lawful := by
  obtain ⟨-, hzero | ⟨hstate, hsame | ⟨hcounts, hle⟩⟩⟩ := hb
  · exact ⟨hzero ▸ Nat.zero_le 8, fun _ => hzero⟩
  · exact ⟨hsame ▸ h.1, fun hc => hsame.trans (h.2 (hstate ▸ hc))⟩
  · exact ⟨hle, fun hc => by simp [hstate, hcounts] at hc⟩

theorem presenceLaw_iff :
    PresenceLaw s ↔ (∀ n : StationNo, (s.presence.peers[n]).Lawful) ∧ (s.presence.peers[s.own]).state = .absent
      ∧ s.presence.quiet ≤ 2 := Iff.rfl

theorem resetPeers_get (n : StationNo) : (Vector.replicate 32 Peer.reset)[n] = Peer.reset :=
  Vector.getElem_replicate n.isLt

theorem presenceLaw_of_reset (h : s.presence.peers = Vector.replicate 32 Peer.reset) (hq : s.presence.quiet ≤ 2) :
    PresenceLaw s := by
  refine presenceLaw_iff.2 ⟨fun n => ?_, ?_, hq⟩
  · rw [h, resetPeers_get]
    exact ⟨Nat.zero_le 8, fun _ => rfl⟩
  · rw [h, resetPeers_get]
    rfl

theorem effect_presenceLaw (h : PresenceLaw s) (he : Effect k sound s t) : PresenceLaw t := by
  obtain ⟨hpeers, hown, hquiet⟩ := presenceLaw_iff.1 h
  cases he with
  | presence pr hq hp =>
    refine presenceLaw_iff.2 ⟨fun n => (hpeers n).mayBecome (hp n), ?_, hq.elim id fun hq => hq.le.trans hquiet⟩
    rcases (hp s.own).1 with hsame | habsent | ⟨hne, -⟩
    · exact hsame.trans hown
    · exact habsent
    · exact absurd rfl hne
  | depart | admitted | found => exact presenceLaw_iff.2 ⟨hpeers, hown, Nat.zero_le 2⟩
  | joining => exact presenceLaw_of_reset rfl hquiet
  | _ => exact h

theorem reset_presenceLaw (hr : Reset s t) : PresenceLaw t := by
  cases hr with
  | blocks => exact presenceLaw_of_reset rfl (Nat.zero_le 2)
  | startUp =>
    rw [startUp_blocks]
    exact presenceLaw_of_reset rfl (Nat.zero_le 2)

/-! The range law. -/

/-- What the range law asks of the station state. -/
def Station.InRange (st : Station) : Prop :=
  match st with
  | .listen n => n ≤ 3
  | .joining (.admitted t) => t ≤ 4
  | .joining (.filling t) => t ≤ 4
  | .muted t _ => t ≤ 64
  | _ => True

theorem rangeLaw_iff :
    RangeLaw s ↔ s.line.gap ≤ 24 ∧ s.line.held ≤ 12 ∧ (∀ p : LocalPoint, (s.points[p]).run ≤ 7)
      ∧ (∀ b : Button, (s.buttons.get b).run ≤ 7) ∧ s.station.InRange := Iff.rfl

theorem moves_inRange {st st' : Station} (hm : st.Moves st') (h : st.InRange) : st'.InRange := by
  cases hm with
  | boundary =>
    cases st with
    | listen | muted => exact min_le_left _ _
    | joining phase =>
      cases phase with
      | asking => trivial
      | admitted | filling => exact min_le_left _ _
    | _ => trivial
  | beginListen | firstRoll | roll => exact Nat.zero_le _
  | complete => trivial
  | loseStep => exact h

theorem Line.staysInRange.le {l l' : Line} (h : l.staysInRange l') (hg : l.gap ≤ 24) (hh : l.held ≤ 12) :
    l'.gap ≤ 24 ∧ l'.held ≤ 12 :=
  ⟨h.1.elim id fun h => h.le.trans hg, h.2.elim id fun h => h.le.trans hh⟩

theorem left_range {l : Line} (hl : s.line.LeftFree l ∨ (l = s.line ∧ s.station.offersNothing)) :
    s.line.staysInRange l := by
  rcases hl with hl | ⟨rfl, -⟩
  · exact hl.range
  · exact s.line.staysInRange_refl

theorem effect_rangeLaw (h : RangeLaw s) (he : Effect k sound s t) : RangeLaw t := by
  obtain ⟨hgap, hheld, hpoints, hbuttons, hstation⟩ := rangeLaw_iff.1 h
  cases he with
  | points ps hps =>
    exact ⟨hgap, hheld, fun p => (hps p).elim id fun hp => hp.le.trans (hpoints p), hbuttons, hstation⟩
  | buttons bs hbs =>
    exact ⟨hgap, hheld, hpoints, fun b => (hbs b).elim id fun hb => hb.le.trans (hbuttons b), hstation⟩
  | station st hm => exact ⟨hgap, hheld, hpoints, hbuttons, moves_inRange hm hstation⟩
  | line l _ hl | start x l _ _ _ hl | land l _ hl =>
    obtain ⟨hg, hh⟩ := hl.le hgap hheld
    exact ⟨hg, hh, hpoints, hbuttons, hstation⟩
  | depart f l _ _ _ _ hl =>
    obtain ⟨hg, hh⟩ := hl.range.le hgap hheld
    exact ⟨hg, hh, hpoints, hbuttons, hstation⟩
  | found f l _ _ _ _ hl =>
    obtain ⟨hg, hh⟩ := hl.range.le hgap hheld
    exact ⟨hg, hh, hpoints, hbuttons, trivial⟩
  | admitted f l _ _ _ _ hl =>
    obtain ⟨hg, hh⟩ := hl.range.le hgap hheld
    exact ⟨hg, hh, hpoints, hbuttons, Nat.zero_le 4⟩
  | muted f l _ _ _ hl =>
    obtain ⟨hg, hh⟩ := hl.le hgap hheld
    exact ⟨hg, hh, hpoints, hbuttons, Nat.zero_le 64⟩
  | discord l _ _ hl =>
    obtain ⟨hg, hh⟩ := (left_range hl).le hgap hheld
    exact ⟨hg, hh, hpoints, hbuttons, trivial⟩
  | joining l r _ _ hl =>
    obtain ⟨hg, hh⟩ := (left_range hl).le hgap hheld
    exact ⟨hg, hh, hpoints, hbuttons, trivial⟩
  | retry => exact ⟨hgap, hheld, hpoints, hbuttons, trivial⟩
  | _ => exact h

theorem rangeLaw_of_reset (hl : t.line = Line.reset) (hp : t.points = Vector.replicate 8 Point.reset)
    (hb : t.buttons = Buttons.reset) (hst : t.station.InRange) : RangeLaw t := by
  refine rangeLaw_iff.2 ⟨by simp [hl, Line.reset], by simp [hl, Line.reset], fun p => ?_, fun b => ?_, hst⟩
  · have hpoint : (Vector.replicate 8 Point.reset)[p] = Point.reset := Vector.getElem_replicate p.isLt
    rw [hp, hpoint]
    exact Nat.zero_le 7
  · rw [hb]
    cases b <;> exact Nat.zero_le 7

theorem startUp_inRange (s : State) (kind : ResetKind) : (s.startUp kind).station.InRange := by
  rcases startUp_cases s kind with ⟨-, hst, -⟩ | ⟨c, -, hst, -⟩ <;> rw [hst] <;> trivial

theorem reset_rangeLaw (hr : Reset s t) : RangeLaw t := by
  cases hr with
  | blocks => exact rangeLaw_of_reset rfl rfl rfl trivial
  | startUp p kind =>
    have hst := startUp_inRange { s with port := p } kind
    rw [startUp_blocks] at hst ⊢
    exact rangeLaw_of_reset rfl rfl rfl hst

/-! The session law and the store. -/

theorem programmable_iff {st : Station} : st.programmable = true ↔ ∃ c, st = .uncommissioned c := by
  cases st <;> simp [Station.programmable]

theorem moves_programmable {st st' : Station} (h : st.Moves st') {c : Cause} (hst : st = .uncommissioned c) : st' = st := by
  subst hst
  cases h
  rfl

theorem not_inService_of_uncommissioned {st : Station} {c : Cause} (h : st = .uncommissioned c) :
    st.inService = false := by rw [h]; rfl

/-- An effect that leaves the session, the store and a station state out of service alone keeps the session law. -/
theorem sessionLaw_of_same (h : SessionLaw s) (hsession : t.session = s.session) (hstore : t.store = s.store)
    (hst : ∀ c, s.station = .uncommissioned c → t.station = s.station) : SessionLaw t := by
  obtain ⟨hopen, hburn⟩ := h
  rw [SessionLaw, hsession, hstore]
  refine ⟨fun hphase => ?_, hburn⟩
  obtain ⟨hcomm, c, hc⟩ := hopen hphase
  exact ⟨hcomm, c, (hst c hc).trans hc⟩

theorem effect_sessionLaw (h : SessionLaw s) (he : Effect k sound s t) : SessionLaw t := by
  have hserved (hs : s.station.inService = true) {t : State} (c : Cause) (hc : s.station = .uncommissioned c) :
      t.station = s.station := by simp [not_inService_of_uncommissioned hc] at hs
  cases he with
  | session x hopen hburn =>
    refine ⟨fun hphase => ?_, hburn⟩
    rcases hopen hphase with hwas | ⟨hcomm, hprog⟩
    · exact h.1 hwas
    · exact ⟨hcomm, programmable_iff.1 hprog⟩
  | burned hphase =>
    obtain ⟨-, c, hc⟩ := h.1 (by simp [hphase])
    refine ⟨fun hopen => ?_, fun hburning => ?_⟩
    · cases hcomm : isCommissioned (burnIn s.store s.session.staged) with
      | true => exact absurd (by simp [State.completeBurn, hcomm]) hopen
      | false => exact ⟨hcomm, c, hc⟩
    · change (if isCommissioned _ = true then SessionPhase.closed else .opened) = .burning at hburning
      split at hburning <;> cases hburning
  | station st hm => exact sessionLaw_of_same h rfl rfl fun c hc => moves_programmable hm hc
  | found | admitted => exact sessionLaw_of_same h rfl rfl (hserved ‹_›)
  | muted f l _ hs => exact sessionLaw_of_same h rfl rfl (hserved hs)
  | discord l hs => exact sessionLaw_of_same h rfl rfl (hserved hs)
  | joining l r _ hs => exact sessionLaw_of_same h rfl rfl (hserved hs)
  | retry _ hs =>
    refine sessionLaw_of_same h rfl rfl fun c hc => ?_
    simp [hc, Station.transferOver] at hs
  | _ => exact h

theorem startUp_session (s : State) (kind : ResetKind) : (s.startUp kind).session = Session.reset := by
  rw [startUp_blocks]
  rfl

theorem reset_sessionLaw (hr : Reset s t) : SessionLaw t := by
  cases hr with
  | blocks => exact ⟨fun h => absurd rfl h, nofun⟩
  | startUp p kind =>
    rw [SessionLaw, startUp_session]
    exact ⟨fun h => absurd rfl h, nofun⟩

/-- The cells of the store only gain bits. -/
def gainsBits (cells cells' : Vector Byte 26) : Prop :=
  ∀ (c : CellNo) (i : Nat), (cells[c]).getLsbD i = true → (cells'[c]).getLsbD i = true

theorem burnIn_gainsBits (cells : Vector Byte 26) (staged : Option (CellNo × Byte)) :
    gainsBits cells (burnIn cells staged) := by
  intro c i h
  unfold burnIn
  split
  · exact h
  · rw [update_get]
    split
    case isTrue heq => subst heq; rw [BitVec.getLsbD_or, h, Bool.true_or]
    case isFalse => exact h

theorem effect_store (he : Effect k sound s t) :
    t.store = s.store ∨ (s.session.phase = .burning ∧ gainsBits s.store t.store) := by
  cases he with
  | burned h => exact .inr ⟨h, burnIn_gainsBits _ _⟩
  | _ => exact .inl rfl

theorem reset_store (hr : Reset s t) : t.store = s.store := by
  cases hr with
  | blocks => rfl
  | startUp =>
    rw [startUp_blocks]
    rfl

/-! The silent law. -/

/-- What the silent law asks of a station out of service. -/
def State.Silent (s : State) : Prop :=
  s.annList.records = [] ∧ s.annList.overflow = false ∧ s.annList.walks = [] ∧ s.outbox.entries = []
  ∧ s.lineCount = 0 ∧ s.line.frame = none ∧ s.line.strikes = 0 ∧ ∀ n : StationNo, s.peerState n = .absent

theorem silentLaw_iff :
    SilentLaw s ↔ (s.station.inService = false → s.Silent)
      ∧ (s.running = true → (s.settings = none ↔ ∃ c, s.station = .uncommissioned c)) := Iff.rfl

/-- A station that is in service before and after keeps the silent law with power and settings. -/
theorem silentLaw_of_inService (h : SilentLaw s) (hs : s.station.inService = true) (ht : t.station.inService = true)
    (hpower : t.power = s.power) (hsettings : t.settings = s.settings) : SilentLaw t := by
  refine silentLaw_iff.2 ⟨fun hout => by simp [ht] at hout, fun hrun => ?_⟩
  have hrun' : s.running = true := by rwa [State.running, hpower] at hrun
  have hnone (u : State) (hu : u.station.inService = true) : ¬∃ c, u.station = .uncommissioned c :=
    fun ⟨c, hc⟩ => by simp [not_inService_of_uncommissioned hc] at hu
  rw [hsettings, (silentLaw_iff.1 h).2 hrun']
  exact iff_of_false (hnone s hs) (hnone t ht)

theorem moves_inService {st st' : Station} (h : st.Moves st') :
    st'.inService = st.inService ∨ (st = .start ∧ st' = .listen 0) := by
  cases h with
  | beginListen => exact .inr ⟨rfl, rfl⟩
  | boundary =>
    refine .inl ?_
    cases st with
    | joining phase => cases phase <;> rfl
    | _ => rfl
  | _ => exact .inl rfl

theorem moves_uncommissioned {st st' : Station} (h : st.Moves st') (c : Cause) :
    st' = .uncommissioned c ↔ st = .uncommissioned c := by
  cases h with
  | boundary =>
    cases st with
    | joining phase => cases phase <;> simp [Station.boundary]
    | _ => simp [Station.boundary]
  | _ => simp

theorem effect_silentLaw (h : SilentLaw s) (he : Effect k sound s t) : SilentLaw t := by
  obtain ⟨hsilent, hset⟩ := silentLaw_iff.1 h
  cases he with
  | presence pr _ hp =>
    refine silentLaw_iff.2 ⟨fun hout => ?_, hset⟩
    obtain ⟨h1, h2, h3, h4, h5, h6, h7, hpeers⟩ := hsilent hout
    refine ⟨h1, h2, h3, h4, h5, h6, h7, fun n => ?_⟩
    rcases (hp n).1 with hsame | habsent | ⟨-, hs⟩
    · exact hsame.trans (hpeers n)
    · exact habsent
    · simp [show s.station.inService = false from hout] at hs
  | station st hm =>
    refine silentLaw_iff.2 ⟨fun hout => ?_, fun hrun => ?_⟩
    · rcases moves_inService hm with hsame | ⟨-, hlisten⟩
      · exact hsilent (hsame ▸ hout)
      · simp [hlisten, Station.inService] at hout
    · simpa [moves_uncommissioned hm] using hset hrun
  | withdraw x _ =>
    refine silentLaw_iff.2 ⟨fun hout => ?_, hset⟩
    obtain ⟨h1, h2, h3, h4, h⟩ := hsilent hout
    exact ⟨h1, h2, h3, by simp [Outbox.withdraw, h4], h⟩
  | offer f _ =>
    refine silentLaw_iff.2 ⟨fun hout => ?_, hset⟩
    have hactive : s.isActive = false := by
      refine decide_eq_false fun hst => ?_
      simp [hst, Station.inService] at hout
    rw [State.offer_of_not_active s f hactive]
    exact hsilent hout
  | records rs o _ hs => exact silentLaw_of_inService h hs hs rfl rfl
  | walks ws _ hs => exact silentLaw_of_inService h hs hs rfl rfl
  | count c _ hs => exact silentLaw_of_inService h hs hs rfl rfl
  | line l hs => exact silentLaw_of_inService h hs hs rfl rfl
  | start x l hs => exact silentLaw_of_inService h hs hs rfl rfl
  | land l hs => exact silentLaw_of_inService h hs hs rfl rfl
  | depart f l _ hs => exact silentLaw_of_inService h hs hs rfl rfl
  | found f l _ hs => exact silentLaw_of_inService h hs rfl rfl rfl
  | admitted f l _ hs => exact silentLaw_of_inService h hs rfl rfl rfl
  | muted f l _ hs => exact silentLaw_of_inService h hs rfl rfl rfl
  | discord l hs => exact silentLaw_of_inService h hs rfl rfl rfl
  | joining l r _ hs => exact silentLaw_of_inService h hs rfl rfl rfl
  | retry _ hs =>
    refine silentLaw_of_inService h ?_ rfl rfl rfl
    rcases hs with hs | ⟨t, hs⟩
    · exact Station.inService_of_timerOver (by simp [Station.timerOver, hs])
    · rw [hs]
      rfl
  | _ => exact h

theorem silent_of_blocks (hl : t.annList = AnnList.reset) (ho : t.outbox = Outbox.reset) (hc : t.lineCount = 0)
    (hline : t.line = Line.reset) (hp : t.presence = Presence.reset) : t.Silent := by
  refine ⟨by rw [hl]; rfl, by rw [hl]; rfl, by rw [hl]; rfl, by rw [ho]; rfl, hc, by rw [hline]; rfl, by rw [hline]; rfl,
    fun n => ?_⟩
  have hpeers : t.presence.peers[n] = Peer.reset := by
    rw [hp]
    exact resetPeers_get n
  rw [State.peerState, hpeers]
  rfl

theorem reset_silentLaw (hr : Reset s t) : SilentLaw t := by
  cases hr with
  | blocks w hw p =>
    refine silentLaw_iff.2 ⟨fun _ => silent_of_blocks rfl rfl rfl rfl rfl, fun hrun => ?_⟩
    exact absurd (by simpa [State.running] using hrun) hw
  | startUp p kind =>
    refine silentLaw_iff.2 ⟨fun _ => ?_, fun _ => ?_⟩
    · rw [startUp_blocks]
      exact silent_of_blocks rfl rfl rfl rfl rfl
    · rcases startUp_cases { s with port := p } kind with ⟨-, hst, hset⟩ | ⟨c, -, hst, hset⟩ <;> simp [hst, hset]

end Laws

/-- Settles O4, effect by effect (`effect_listLaw`). -/
theorem stepKeepsTheListLaw : Obligations.StepKeepsTheListLaw := by
  intro s t h hstep
  exact step_keeps (P := fun s => ListLaw s.annList) False (fun _ _ hf => hf.elim) (fun _ _ h => h)
    (fun _ _ _ _ => effect_listLaw) (fun _ _ _ => reset_listLaw) h hstep

/-- Settles O9, effect by effect (`effect_presenceLaw`). -/
theorem stepKeepsThePresenceLaw : Obligations.StepKeepsThePresenceLaw := by
  intro s t h hstep
  exact step_keeps False (fun _ _ hf => hf.elim) (fun _ _ h => h) (fun _ _ _ _ => effect_presenceLaw)
    (fun _ _ _ => reset_presenceLaw) h hstep

/-- Settles O10, effect by effect (`effect_rangeLaw`). -/
theorem stepKeepsTheRangeLaw : Obligations.StepKeepsTheRangeLaw := by
  intro s t h hstep
  exact step_keeps False (fun _ _ hf => hf.elim) (fun _ _ h => h) (fun _ _ _ _ => effect_rangeLaw)
    (fun _ _ _ => reset_rangeLaw) h hstep

/-- Settles O11, effect by effect (`effect_sessionLaw`). -/
theorem stepKeepsTheSessionLaw : Obligations.StepKeepsTheSessionLaw := by
  intro s t h hstep
  exact step_keeps False (fun _ _ hf => hf.elim) (fun _ _ h => h) (fun _ _ _ _ => effect_sessionLaw)
    (fun _ _ _ => reset_sessionLaw) h hstep

/-- Settles O12, effect by effect (`effect_silentLaw`). -/
theorem stepKeepsTheSilentLaw : Obligations.StepKeepsTheSilentLaw := by
  intro s t h hstep
  exact step_keeps False (fun _ _ hf => hf.elim) (fun _ _ h => h) (fun _ _ _ _ => effect_silentLaw)
    (fun _ _ _ => reset_silentLaw) h hstep

/-- Settles O13: only the end of a burn writes the store, and under the session law no burn runs on a commissioned one. -/
theorem storeOnlyGainsBitsAndIsFrozenOnceCommissioned :
    Obligations.StoreOnlyGainsBitsAndIsFrozenOnceCommissioned := by
  intro s t hstep
  constructor
  · exact step_keeps (P := fun u => gainsBits s.store u.store) False (fun _ _ hf => hf.elim) (fun _ _ h => h)
      (fun u v _ _ hu he => by
        rcases effect_store he with heq | ⟨-, hgain⟩
        · rwa [heq]
        · exact fun c i h => hgain c i (hu c i h))
      (fun _ _ hu hr => by rwa [reset_store hr]) (fun _ _ h => h) hstep
  · intro hlaw hcomm
    have hkept := step_keeps (P := fun u => SessionLaw u ∧ u.store = s.store) False (fun _ _ hf => hf.elim)
      (fun _ _ h => h)
      (fun u v _ _ hu he => by
        refine ⟨effect_sessionLaw hu.1 he, ?_⟩
        rcases effect_store he with heq | ⟨hburning, -⟩
        · exact heq.trans hu.2
        · have hopen := (hu.1.1 (by simp [hburning])).1
          simp [hu.2, hcomm] at hopen)
      (fun _ _ hu hr => ⟨reset_sessionLaw hr, (reset_store hr).trans hu.2⟩) ⟨hlaw, rfl⟩ hstep
    exact hkept.2

end Sys2Proof.Machine

/-!
What every command leaves: the waiting commands; and what a command that is no reset's leaves alone by its reach: settings,
UNCOMMISSIONED, DISCORD, the records and the line count (R5, R83, R96, R163, R166).
-/

namespace Sys2Proof.Machine

set_option Elab.async false

section Frames

variable {k : Reach} {sound : Prop} {s t : State}

theorem effect_frame (he : Effect k sound s t) :
    t.pending = s.pending ∧ t.settings = s.settings ∧ t.power = s.power := by
  cases he <;> exact ⟨rfl, rfl, rfl⟩

theorem effects_frame (h : Effects k sound s t) :
    t.pending = s.pending ∧ t.settings = s.settings ∧ t.power = s.power :=
  h.keeps (P := fun u => u.pending = s.pending ∧ u.settings = s.settings ∧ u.power = s.power)
    (fun _ _ ⟨h1, h2, h3⟩ he =>
      ⟨(effect_frame he).1.trans h1, (effect_frame he).2.1.trans h2, (effect_frame he).2.2.trans h3⟩) ⟨rfl, rfl, rfl⟩

theorem reset_pending (h : Reset s t) : t.pending = s.pending := by
  cases h with
  | blocks => rfl
  | startUp =>
    rw [startUp_blocks]
    rfl

/-- UNCOMMISSIONED is left at no effect (R166). -/
theorem effect_uncommissioned (he : Effect k sound s t) {c : Cause} (hc : s.station = .uncommissioned c) :
    t.station = .uncommissioned c := by
  have hserved (hs : s.station.inService = true) {t : State} : t.station = .uncommissioned c := by
    simp [not_inService_of_uncommissioned hc] at hs
  cases he with
  | station st hm => exact (moves_programmable hm hc).trans hc
  | found f l _ hs => exact hserved hs
  | admitted f l _ hs => exact hserved hs
  | muted f l _ hs => exact hserved hs
  | discord l hs => exact hserved hs
  | joining l r _ hs => exact hserved hs
  | retry _ hs => simp [hc, Station.transferOver] at hs
  | _ => exact hc

/-- DISCORD keeps list and line count at a quiet effect (R96). -/
theorem quiet_discord (he : Effect .quiet sound s t) (hst : s.station = .discord) :
    t.station = .discord ∧ t.annList = s.annList ∧ t.lineCount = s.lineCount := by
  cases he with
  | station st hm =>
    refine ⟨?_, rfl, rfl⟩
    rw [hst] at hm
    cases hm
    rfl
  | records _ _ hk | walks _ hk | count _ hk | depart _ _ hk | found _ _ hk | admitted _ _ hk | muted _ _ hk => cases hk
  | discord _ _ hne => exact absurd hst (hne.resolve_left nofun)
  | joining _ _ hk => exact absurd rfl hk
  | retry hk => exact absurd rfl hk
  | _ => exact ⟨hst, rfl, rfl⟩

/-- Short of the end of a frame the records stay or are emptied, and the line count stays (R5, R83). -/
theorem effect_records (he : Effect k sound s t) (hk : k ≠ .frameEnd) :
    (t.annList.records = s.annList.records ∨ t.annList.records = [])
      ∧ (k = .quiet → t.annList.records = s.annList.records ∧ t.annList.overflow = s.annList.overflow)
      ∧ t.lineCount = s.lineCount := by
  cases he with
  | records _ _ hend | walks _ hend | count _ hend | depart _ _ hend | found _ _ hend | admitted _ _ hend
  | muted _ _ hend => exact absurd hend hk
  | joining _ _ hquiet => exact ⟨.inr rfl, fun hq => absurd hq hquiet, rfl⟩
  | retry hquiet => exact ⟨.inr rfl, fun hq => absurd hq hquiet, rfl⟩
  | _ => exact ⟨.inl rfl, fun _ => ⟨rfl, rfl⟩, rfl⟩

theorem effects_records (h : Effects k sound s t) (hk : k ≠ .frameEnd) :
    (t.annList.records = s.annList.records ∨ t.annList.records = [])
      ∧ (k = .quiet → t.annList.records = s.annList.records ∧ t.annList.overflow = s.annList.overflow)
      ∧ t.lineCount = s.lineCount := by
  induction h with
  | refl => exact ⟨.inl rfl, fun _ => ⟨rfl, rfl⟩, rfl⟩
  | tail _ hstep ih =>
    obtain ⟨hrec, hquiet, hcount⟩ := effect_records hstep hk
    obtain ⟨hrec', hquiet', hcount'⟩ := ih
    refine ⟨hrec.elim (fun h => ?_) .inr, fun hq => ?_, hcount.trans hcount'⟩
    · rwa [h]
    · exact ⟨(hquiet hq).1.trans (hquiet' hq).1, (hquiet hq).2.trans (hquiet' hq).2⟩

end Frames

/-- The state a command answers is the one its chain of effects reaches. -/
theorem effects_of_exec {c : Instr} {s t : State} (hc : c ∉ resetCommands) (h : exec c s = .next t) :
    Effects (reachOf c s) s.sendsForeign s t := by
  obtain ⟨u, hu, hP⟩ := exec_effects hc s
  obtain rfl : t = u := by simpa using h.symm.trans hu
  exact hP

/-- Settles O2: a command's next state is reached by effects, or by a reset, that keep the waiting commands. -/
theorem everyCommandAnswersAndLeavesTheQueue : Obligations.EveryCommandAnswersAndLeavesTheQueue := by
  intro c s
  obtain ⟨t, ht, hreset | heffects⟩ := exec_effects_or_reset c s
  · exact ⟨t, ht, reset_pending hreset⟩
  · exact ⟨t, ht, (effects_frame heffects).1⟩

/-- A frame that a station in DISCORD receives to its end leaves list, line count and state (R96). -/
theorem execReceivedFrameOutcome_discord {s t : State} (hst : s.station = .discord) {sl : Slots}
    (h : execReceivedFrameOutcome sl s = .next t) :
    t.station = .discord ∧ t.annList = s.annList ∧ t.lineCount = s.lineCount := by
  have hend (x : InFrame) : s.takeTimerEnd.endReceivedFrame x sl = s.mapLine fun l => l.endFrame x sl := by
    rw [takeTimerEnd_of_not_over (by rw [hst]; rfl)]
    simp [State.endReceivedFrame, State.receiverOutcome, hst, Station.findsDuplicate]
  have hsame : Answers (execReceivedFrameOutcome sl s) fun t =>
      t.station = .discord ∧ t.annList = s.annList ∧ t.lineCount = s.lineCount := by
    unfold execReceivedFrameOutcome
    split
    · exact .next ⟨hst, rfl, rfl⟩
    split
    · exact .next ⟨hst, rfl, rfl⟩
    · refine .guard (fun _ => ?_) ⟨hst, rfl, rfl⟩
      rw [hend]
      exact ⟨hst, rfl, rfl⟩
    · exact .next ⟨hst, rfl, rfl⟩
  obtain ⟨u, hu, hP⟩ := hsame
  obtain rfl : t = u := by simpa using h.symm.trans hu
  exact hP

/-- A station with nothing on the line has no outcome of its own. -/
theorem execOwnFrameOutcome_of_free {s : State} (h : s.line.sending = none) (sl : Slots) :
    execOwnFrameOutcome sl s = .next s := by
  unfold execOwnFrameOutcome
  unfold Line.sending at h
  cases hframe : s.line.frame with
  | none => rfl
  | some x =>
    rw [hframe] at h
    cases hrole : x.role with
    | receiver => simp [hrole]
    | transmitter f => simp [hrole] at h
    | collided f => simp [hrole] at h

/-- Settles O14: settings and UNCOMMISSIONED stay at every effect; in DISCORD a command is quiet, or the end of a frame of
which the station has no part. -/
theorem settingsUncommissionedAndDiscordEndOnlyAtAReset : Obligations.SettingsUncommissionedAndDiscordEndOnlyAtAReset := by
  intro c s t hc hflight hexec
  have heffects := effects_of_exec hc hexec
  refine ⟨(effects_frame heffects).2.1, fun hst => ?_, fun cause hcause => ?_⟩
  · have hover : s.station.timerOver = false := by rw [hst]; rfl
    have hkept : t.station = .discord ∧ t.annList = s.annList ∧ t.lineCount = s.lineCount := by
      by_cases hquiet : reachOf c s = .quiet
      · rw [hquiet] at heffects
        refine heffects.keeps (P := fun u => u.station = .discord ∧ u.annList = s.annList ∧ u.lineCount = s.lineCount)
          (fun u v ⟨h1, h2, h3⟩ he => ?_) ⟨hst, rfl, rfl⟩
        obtain ⟨h1', h2', h3'⟩ := quiet_discord he h1
        exact ⟨h1', h2'.trans h2, h3'.trans h3⟩
      · unfold reachOf at hquiet
        rw [hover] at hquiet
        split at hquiet
        case h_1 sl =>
          have hfree := (sending_of_offersNothing hflight (by simp [hst, Station.offersNothing])).1
          obtain rfl : t = s := by simpa using hexec.symm.trans (execOwnFrameOutcome_of_free hfree sl)
          exact ⟨hst, rfl, rfl⟩
        case h_2 sl => exact execReceivedFrameOutcome_discord hst hexec
        all_goals exact absurd rfl hquiet
    have hflight' : FlightLaw t := heffects.keeps (fun _ _ => effect_flightLaw) hflight
    exact ⟨hkept.1, hkept.2.1, hkept.2.2,
      (sending_of_offersNothing hflight' (by simp [hkept.1, Station.offersNothing])).2⟩
  · exact heffects.keeps (P := fun u => u.station = .uncommissioned cause) (fun _ _ h he => effect_uncommissioned he h) hcause

/-- Settles O15: short of the end of a frame a command's effects leave records and line count by its reach. -/
theorem listAndLineCountMoveOnlyAtOutcomesAndResets : Obligations.ListAndLineCountMoveOnlyAtOutcomesAndResets := by
  intro c s t hexec
  by_cases hc : c ∈ resetCommands
  · have hreset : t.annList.records = s.annList.records ∨ t.annList.records = [] := by
      obtain ⟨u, hu, hP⟩ := exec_reset (k := .quiet) (sound := True) hc s
      obtain rfl : t = u := by simpa using hexec.symm.trans hu
      rcases hP with hr | heffects
      · cases hr with
        | blocks => exact .inr rfl
        | startUp =>
          rw [startUp_blocks]
          exact .inr rfl
      · exact (effects_records heffects (by decide)).1
    have hlisted : c ∈ ([.listenEnd, .transferTimeout, .mutedTimerExpiry, .powerOn, .supplyLost, .pinReset, .resetEnd,
        .restart] : List Instr) := by
      simp only [resetCommands, List.mem_cons, List.not_mem_nil, or_false] at hc
      rcases hc with rfl | rfl | rfl | rfl | rfl <;> simp
    exact ⟨fun _ => ⟨hreset, fun hnot => absurd hlisted hnot⟩, fun _ hnot => absurd hc hnot⟩
  · have heffects := effects_of_exec hc hexec
    have hreach (hout : ∀ slots, c ≠ .ownFrameOutcome slots ∧ c ≠ .receivedFrameOutcome slots) :
        reachOf c s ≠ .frameEnd := by
      unfold reachOf
      split
      case h_1 sl => exact absurd rfl (hout sl).1
      case h_2 sl => exact absurd rfl (hout sl).2
      all_goals cases s.station.timerOver <;> decide
    refine ⟨fun hout => ⟨(effects_records heffects (hreach hout)).1, fun hnot hover => ?_⟩,
      fun hout _ => (effects_records heffects (hreach hout)).2.2⟩
    refine (effects_records heffects (hreach hout)).2.1 ?_
    unfold reachOf
    split
    case h_1 sl => exact absurd rfl (hout sl).1
    case h_2 sl => exact absurd rfl (hout sl).2
    case h_3 | h_4 | h_5 => simp at hnot
    case h_6 cells =>
      rw [hover.resolve_right fun hne => hne cells rfl]
      rfl
    case h_7 => rfl

end Sys2Proof.Machine

/-!
The front command and the reset state; the alarm sequence bulletin by bulletin (spec/02) with the laws it keeps (R11, R20); and
the record of a transfer roll at its start cell and at a joiner (Tables 6-4, 1-3).
-/

namespace Sys2Proof.Machine

set_option Elab.async false

/-- Settles O1, by the definition of a step. -/
theorem stepTakesTheFrontCommand : Obligations.StepTakesTheFrontCommand := fun _ _ _ => rfl

/-- Settles O3, law by law on the reset values. -/
theorem resetStateKeepsTheLaws : Obligations.ResetStateKeepsTheLaws :=
  ⟨listLaw_nil rfl rfl, flightLaw_of_free rfl rfl rfl, outboxLaw_iff_lawful.2 ⟨lawful_of_entries rfl, nofun⟩,
    strikeLaw_of_not_muted nofun (Nat.zero_le 15), presenceLaw_of_reset rfl (Nat.zero_le 2),
    rangeLaw_of_reset rfl rfl rfl trivial, ⟨fun h => absurd rfl h, nofun⟩,
    silentLaw_iff.2 ⟨fun _ => silent_of_blocks rfl rfl rfl rfl rfl, fun _ => iff_of_true rfl ⟨.blank, rfl⟩⟩⟩

/-! Records raised (Tables 2-3, 2-7, 2-8). -/

section Raise

variable {options : Group → GroupOptions} {filling : Bool} {p : PointId} {g : Group} {rs : List Record}

theorem raiseRecords_new (hnone : findRecord rs p = none) (hlen : rs.length < 64) :
    raiseRecords options false p g rs = (.published, rs ++
      [{ id := p, state := .alert, group := g,
         firstOut := (options g).firstout && rs.all (fun r => r.group != g), silenced := false }]) := by
  rw [findRecord_eq_none] at hnone
  simp [raiseRecords, hnone, Config.listCapacity, hlen, newRecord, ← not_occupied]

theorem raiseRecords_refused (hnone : findRecord rs p = none) (hlen : 64 ≤ rs.length) :
    raiseRecords options false p g rs = (.refused, rs) := by
  rw [findRecord_eq_none] at hnone
  simp [raiseRecords, hnone, Config.listCapacity, not_lt.2 hlen]

theorem raiseRecords_ignored (hnone : findRecord rs p = none) : raiseRecords options true p g rs = (.ignored, rs) := by
  rw [findRecord_eq_none] at hnone
  simp [raiseRecords, hnone]

theorem raiseRecords_held (hheld : holds rs p = true) :
    raiseRecords options filling p g rs = (.published, rs.map fun r => if r.id = p then reAlarm r else r) := by
  simp [raiseRecords, hheld]

end Raise

/-- Settles O19: a new record, a refusal at 64 records, or the point's record re-alarmed where it stands. -/
theorem raiseAddsReAlarmsOrIsRefused : Obligations.RaiseAddsReAlarmsOrIsRefused := by
  intro options lossGroup rs f p g hbody hnodup answer
  have hanswer : answer = raiseRecords options false (fieldPoint f.sender p) g rs := by
    simp only [answer, alarmSequence, hbody]
  rw [hanswer]
  refine ⟨raiseRecords_new, raiseRecords_refused, fun older r newer hrs hid => ?_⟩
  have hheld : holds rs (fieldPoint f.sender p) = true := (holds_iff _ _).2 ⟨r, by simp [hrs], hid⟩
  rw [raiseRecords_held hheld, hrs, map_at_point _ hid (hrs ▸ hnodup), reAlarm_eq]

/-! Records returned, acknowledged, silenced and cleared (Tables 2-4, 2-6). -/

theorem returnRecords_eq (options : Group → GroupOptions) (p : PointId) (rs : List Record) :
    returnRecords options p rs = rs.filterMap fun r =>
      if r.id ≠ p then some r
      else match r.state with
        | .alert => if (options r.group).lockin then some { r with state := .lapsed } else none
        | .held => if (options r.group).autoclear then none else some { r with state := .settled, silenced := false }
        | _ => some r := by
  refine List.filterMap_congr fun r _ => ?_
  rw [ite_not]
  refine if_congr Iff.rfl ?_ rfl
  cases h : r.state <;> simp only [returnRecord, h]

theorem actOnGroups_ack_eq (options : Group → GroupOptions) (m : GroupMask) (rs : List Record) :
    actOnGroups m (fun r => ackRecord (options r.group) r) rs = rs.filterMap fun r =>
      if m.getLsbD r.group.val = false then some r
      else match r.state with
        | .alert => some { r with state := .held }
        | .lapsed => if (options r.group).autoclear then none else some { r with state := .settled, silenced := false }
        | _ => some r := by
  refine List.filterMap_congr fun r _ => ?_
  cases hm : m.getLsbD r.group.val with
  | false => simp only [inMask, hm, Bool.false_eq_true, if_false, if_true]
  | true => cases h : r.state <;> simp only [inMask, hm, ackRecord, h, if_true, Bool.true_eq_false, if_false]

theorem actOnGroups_silence_eq (m : GroupMask) (rs : List Record) :
    actOnGroups m (fun r => some (silenceRecord r)) rs = rs.map fun r =>
      if m.getLsbD r.group.val = true ∧ r.state ≠ .held then { r with silenced := true } else r := by
  rw [actOnGroups, ← List.filterMap_eq_map]
  refine List.filterMap_congr fun r _ => ?_
  cases hm : m.getLsbD r.group.val with
  | false => simp only [inMask, hm, Bool.false_eq_true, false_and, if_false, Function.comp]
  | true =>
    cases h : r.state <;> simp only [inMask, hm, silenceRecord, h, if_true, true_and, ne_eq, reduceCtorEq, not_false_eq_true,
      not_true_eq_false, if_false, Function.comp]

theorem actOnGroups_clear_eq (m : GroupMask) (rs : List Record) :
    actOnGroups m clearRecord rs = rs.filter fun r => !(m.getLsbD r.group.val && decide (r.state = .settled)) := by
  rw [actOnGroups, ← List.filterMap_eq_filter]
  refine List.filterMap_congr fun r _ => ?_
  cases hm : m.getLsbD r.group.val with
  | false => simp only [inMask, hm, Bool.false_eq_true, if_false, Bool.false_and, Bool.not_false, Option.guard, if_true]
  | true =>
    cases h : r.state <;> simp only [inMask, hm, clearRecord, h, Option.guard, if_true, Bool.true_and, reduceCtorEq,
      decide_false, decide_true, Bool.not_false, Bool.not_true, Bool.false_eq_true, if_false]

/-- Settles O20: each bulletin's map of the records, state by state. -/
theorem returnAndGroupActionsActRecordByRecord : Obligations.ReturnAndGroupActionsActRecordByRecord := by
  intro options lossGroup filling rs f
  refine ⟨fun p g hbody => ?_, fun m hbody => ?_, fun m hbody => ?_, fun m hbody => ?_⟩ <;>
    simp only [alarmSequence, hbody]
  · exact congrArg (Prod.mk _) (returnRecords_eq _ _ _)
  · exact congrArg (Prod.mk _) (actOnGroups_ack_eq _ _ _)
  · rw [actOnGroups_silence_eq]
  · rw [actOnGroups_clear_eq]

/-- Settles O21: a LOSS raises the loss point as a RAISE its field point, a JOIN returns it. -/
theorem lossRaisesAndJoinReturnsTheLossPoint : Obligations.LossRaisesAndJoinReturnsTheLossPoint := by
  intro options lossGroup filling rs f
  refine ⟨fun n hbody => ?_, fun reason d hbody => ?_, fun hroll => ?_⟩
  · have hraise : alarmSequence options lossGroup filling f rs
        = raiseRecords options filling (lossPoint n) lossGroup rs := by simp only [alarmSequence, hbody]
    rw [hraise]
    refine ⟨?_, ?_, fun hheld => ?_, ?_⟩
    · rintro hnone hlen rfl
      exact raiseRecords_new hnone hlen
    · rintro hnone hlen rfl
      exact raiseRecords_refused hnone hlen
    · rw [ne_eq, findRecord_eq_none, Bool.not_eq_false] at hheld
      rw [raiseRecords_held hheld]
      refine congrArg (Prod.mk _) (List.map_congr_left fun r _ => ?_)
      rw [reAlarm_eq, ite_and]
    · rintro hnone rfl
      exact raiseRecords_ignored hnone
  · simp only [alarmSequence, hbody]
    exact congrArg (Prod.mk _) (returnRecords_eq _ _ _)
  · rcases hroll with ⟨roll, hbody⟩ | ⟨sd, ld, n, hbody⟩ <;> simp only [alarmSequence, hbody]

/-! The option law (R20). -/

/-- What the option law asks of a record. -/
def Record.KeepsOptions (options : Group → GroupOptions) (r : Record) : Prop :=
  (r.state = .lapsed → (options r.group).lockin = true) ∧ (r.state = .settled → (options r.group).autoclear = false)

section Options

variable {options : Group → GroupOptions} {r r' : Record}

theorem optionLaw_filterMap {g : Record → Option Record} {rs : List Record} (h : OptionLaw options rs)
    (hg : ∀ r r', r.KeepsOptions options → g r = some r' → r'.KeepsOptions options) :
    OptionLaw options (rs.filterMap g) := by
  intro r' hr'
  obtain ⟨r, hr, hgr⟩ := List.mem_filterMap.1 hr'
  exact hg r r' (h r hr) hgr

theorem keepsOptions_alert {r : Record} (h : r.state = .alert ∨ r.state = .held) : r.KeepsOptions options := by
  rcases h with h | h <;> simp [Record.KeepsOptions, h]

theorem reAlarm_keepsOptions (h : r.KeepsOptions options) : (reAlarm r).KeepsOptions options := by
  rw [reAlarm_eq]
  split
  · exact keepsOptions_alert (.inl rfl)
  · exact h

theorem returnRecord_keepsOptions (h : r.KeepsOptions options)
    (hr : returnRecord (options r.group) r = some r') : r'.KeepsOptions options := by
  unfold returnRecord at hr
  split at hr
  · split at hr
    case isTrue hlock => obtain rfl := Option.some.inj hr; exact ⟨fun _ => hlock, nofun⟩
    case isFalse => cases hr
  · split at hr
    case isTrue => cases hr
    case isFalse hclear => obtain rfl := Option.some.inj hr; exact ⟨nofun, fun _ => by simpa using hclear⟩
  all_goals obtain rfl := Option.some.inj hr; exact h

theorem ackRecord_keepsOptions (h : r.KeepsOptions options)
    (hr : ackRecord (options r.group) r = some r') : r'.KeepsOptions options := by
  unfold ackRecord at hr
  split at hr
  · obtain rfl := Option.some.inj hr
    exact keepsOptions_alert (.inr rfl)
  · obtain rfl := Option.some.inj hr
    exact h
  · split at hr
    case isTrue => cases hr
    case isFalse hclear => obtain rfl := Option.some.inj hr; exact ⟨nofun, fun _ => by simpa using hclear⟩
  · obtain rfl := Option.some.inj hr
    exact h

theorem silenceRecord_keepsOptions (h : r.KeepsOptions options) : (silenceRecord r).KeepsOptions options := by
  unfold silenceRecord
  split <;> exact h

theorem clearRecord_keepsOptions (h : r.KeepsOptions options) (hr : clearRecord r = some r') :
    r'.KeepsOptions options := by
  unfold clearRecord at hr
  split at hr
  case h_4 => cases hr
  all_goals obtain rfl := Option.some.inj hr; exact h

theorem optionLaw_raiseRecords {filling : Bool} {p : PointId} {g : Group} {rs : List Record} (h : OptionLaw options rs) :
    OptionLaw options (raiseRecords options filling p g rs).2 := by
  unfold raiseRecords
  split
  · intro r' hr'
    obtain ⟨r, hr, rfl⟩ := List.mem_map.1 hr'
    split
    · exact reAlarm_keepsOptions (h r hr)
    · exact h r hr
  split
  · exact h
  split
  · intro r hr
    rcases List.mem_append.1 hr with hr | hr
    · exact h r hr
    · obtain rfl := List.mem_singleton.1 hr
      exact keepsOptions_alert (.inl rfl)
  · exact h

theorem optionLaw_returnRecords {p : PointId} {rs : List Record} (h : OptionLaw options rs) :
    OptionLaw options (returnRecords options p rs) := by
  refine optionLaw_filterMap h fun r r' hr hgr => ?_
  split at hgr
  · exact returnRecord_keepsOptions hr hgr
  · exact Option.some.inj hgr ▸ hr

theorem optionLaw_actOnGroups {m : GroupMask} {g : Record → Option Record} {rs : List Record} (h : OptionLaw options rs)
    (hg : ∀ r r', r.KeepsOptions options → g r = some r' → r'.KeepsOptions options) :
    OptionLaw options (actOnGroups m g rs) := by
  refine optionLaw_filterMap h fun r r' hr hgr => ?_
  split at hgr
  · exact hg r r' hr hgr
  · exact Option.some.inj hgr ▸ hr

end Options

/-- Settles O22: each record that a bulletin makes keeps the options of its group. -/
theorem alarmSequenceKeepsTheOptionLaw : Obligations.AlarmSequenceKeepsTheOptionLaw := by
  intro options lossGroup filling f rs h
  unfold alarmSequence
  split
  · exact optionLaw_raiseRecords h
  · exact optionLaw_raiseRecords h
  · exact optionLaw_returnRecords h
  · exact optionLaw_actOnGroups h fun _ _ => ackRecord_keepsOptions
  · exact optionLaw_actOnGroups h fun _ _ hr hgr => Option.some.inj hgr ▸ silenceRecord_keepsOptions hr
  · exact optionLaw_actOnGroups h fun _ _ => clearRecord_keepsOptions
  · exact h
  · exact h
  · exact optionLaw_returnRecords h

/-! The first-out law (R11). -/

theorem firstOutLaw_iff {options : Group → GroupOptions} {rs : List Record} :
    FirstOutLaw options rs ↔ (∀ r ∈ rs, r.firstOut = true → (options r.group).firstout = true)
      ∧ rs.Pairwise fun x r => r.firstOut = true → x.group ≠ r.group := by
  constructor
  · intro h
    refine ⟨fun r hr hmark => ?_, pairwise_of_split fun older x newer hrs r hr hmark => ?_⟩
    · obtain ⟨older, newer, hrs⟩ := List.append_of_mem hr
      exact (h older r newer hrs hmark).1
    · obtain ⟨between, last, rfl⟩ := List.append_of_mem hr
      exact (h (older ++ x :: between) r last (by simp [hrs]) hmark).2 x (by simp)
  · rintro ⟨hmarked, hpair⟩ older r newer rfl hmark
    exact ⟨hmarked r (by simp) hmark,
      fun x hx => (List.pairwise_append.1 hpair).2.2 x hx r (List.mem_cons_self ..) hmark⟩

/-- Settles O23: a bulletin leaves places, groups and marks, or adds at the tail a record that is marked only in a group
that no record occupies. -/
theorem alarmSequenceKeepsTheFirstOutLaw : Obligations.AlarmSequenceKeepsTheFirstOutLaw := by
  intro options lossGroup filling f rs h
  rw [firstOutLaw_iff] at h ⊢
  obtain ⟨hmarked, hpair⟩ := h
  rcases alarmSequence_cases options lossGroup filling f rs with ⟨g, hg, hrecords⟩ | ⟨p, g, -, -, -, hadd⟩
  · rw [hrecords]
    refine ⟨fun r' hr' hmark => ?_, hpair.filterMap g fun a b hab a' ha' b' hb' hmark => ?_⟩
    · obtain ⟨r, hr, hgr⟩ := List.mem_filterMap.1 hr'
      obtain ⟨-, hgroup, hfirst⟩ := hg r r' hgr
      exact hgroup ▸ hmarked r hr (hfirst ▸ hmark)
    · obtain ⟨-, hgroup, -⟩ := hg a a' ha'
      obtain ⟨-, hgroup', hfirst⟩ := hg b b' hb'
      rw [hgroup, hgroup']
      exact hab (hfirst ▸ hmark)
  · rw [hadd]
    have hnew (hmark : (newRecord options p g rs).firstOut = true) :
        (options g).firstout = true ∧ ∀ r ∈ rs, r.group ≠ g := by
      simpa [newRecord, not_occupied] using hmark
    refine ⟨fun r hr hmark => ?_, List.pairwise_append.2 ⟨hpair, List.pairwise_singleton .., fun x hx r hr hmark => ?_⟩⟩
    · rcases List.mem_append.1 hr with hr | hr
      · exact hmarked r hr hmark
      · obtain rfl := List.mem_singleton.1 hr
        exact (hnew hmark).1
    · obtain rfl := List.mem_singleton.1 hr
      exact (hnew hmark).2 x hx

/-! Transfer rolls (Tables 6-4, 1-3). -/

theorem dropWhile_at {older newer : List Record} {c : Record} (hnodup : ((older ++ c :: newer).map Record.id).Nodup) :
    (older ++ c :: newer).dropWhile (fun r => r.id != c.id) = c :: newer := by
  have holder : ∀ r ∈ older, (r.id != c.id) = true := by
    intro r hr
    rw [List.map_append, List.nodup_append] at hnodup
    simpa using hnodup.2.2 r.id (List.mem_map_of_mem hr) c.id (by simp)
  rw [List.dropWhile_append_of_pos holder, List.dropWhile_cons_of_neg (by simp)]

theorem nextRecord_at {older newer : List Record} {c : Record} (hnodup : ((older ++ c :: newer).map Record.id).Nodup) :
    nextRecord (older ++ c :: newer) (some c.id) = newer.head? := by
  rw [nextRecord, dropWhile_at hnodup]
  rfl

/-- The last flag of a roll that carries a record: no record follows it. -/
theorem last_at {older newer : List Record} {c : Record} (hnodup : ((older ++ c :: newer).map Record.id).Nodup) :
    (nextRecord (older ++ c :: newer) (some c.id)).isNone = newer.isEmpty := by
  rw [nextRecord_at hnodup]
  cases newer <;> rfl

/-- Settles O25: the record after the cursor's, and the last flag by what follows it. -/
theorem transferRollCarriesTheSuccessorOfTheCursor : Obligations.TransferRollCarriesTheSuccessorOfTheCursor := by
  intro n overflow rs hnodup
  refine ⟨rfl, ?_, ?_, ?_⟩
  · rintro head tail rfl
    have hlast := last_at (older := []) hnodup
    simp only [List.nil_append] at hlast
    simp [rollOf, nextRecord, ← hlast]
  · rintro older c x tail rfl
    have hnext : nextRecord (older ++ c :: x :: tail) (some c.id) = some x := nextRecord_at hnodup
    have hsplit : older ++ c :: x :: tail = (older ++ [c]) ++ x :: tail := by simp
    have hlast := last_at (older := older ++ [c]) (c := x) (newer := tail) (hsplit ▸ hnodup)
    rw [← hsplit] at hlast
    simp [rollOf, hnext, hlast]
  · rintro older c rfl
    have hnext : nextRecord (older ++ [c]) (some c.id) = none := nextRecord_at hnodup
    simp [rollOf, hnext]

section Take

variable {rs older newer : List Record} {x p : Record} {pred : Option PointId}

theorem takeRecord_replaced (hnodup : ((older ++ p :: newer).map Record.id).Nodup) (hid : p.id = x.id) :
    takeRecord (older ++ p :: newer) pred (some x) = some (older ++ x :: newer) := by
  have hholds : holds (older ++ p :: newer) x.id = true := (holds_iff _ _).2 ⟨p, by simp, hid⟩
  simp only [takeRecord, hholds, if_true]
  rw [map_at_point (fun _ => x) hid hnodup]

theorem takeRecord_head (hnew : holds rs x.id = false) (hlen : rs.length < 64) :
    takeRecord rs none (some x) = some (x :: rs) := by
  simp [takeRecord, hnew, Config.listCapacity, hlen]

theorem takeRecord_after (hnodup : ((older ++ p :: newer).map Record.id).Nodup)
    (hnew : holds (older ++ p :: newer) x.id = false) (hlen : (older ++ p :: newer).length < 64) :
    takeRecord (older ++ p :: newer) (some p.id) (some x) = some (older ++ p :: x :: newer) := by
  have hpred : holds (older ++ p :: newer) p.id = true := (holds_iff _ _).2 ⟨p, by simp, rfl⟩
  have holder : ∀ y ∈ older, y.id ≠ p.id := fun y hy => by
    rw [List.map_append, List.nodup_append] at hnodup
    exact hnodup.2.2 y.id (List.mem_map_of_mem hy) p.id (by simp)
  simp only [takeRecord, hnew, Bool.false_eq_true, if_false, Config.listCapacity, hlen, if_true, hpred,
    insertAfter_at rfl holder]

theorem takeRecord_error (hnew : holds rs x.id = false)
    (h : 64 ≤ rs.length ∨ ∃ c, pred = some c ∧ holds rs c = false) : takeRecord rs pred (some x) = none := by
  simp only [takeRecord, hnew, Bool.false_eq_true, if_false]
  split
  case isTrue hlt =>
    obtain ⟨c, rfl, hc⟩ := h.resolve_left (not_le.2 hlt)
    simp [hc]
  case isFalse => rfl

end Take

/-- Settles O28, row by row of Table 1-3. -/
theorem transferRollRecordIsReplacedInsertedOrAnError : Obligations.TransferRollRecordIsReplacedInsertedOrAnError := by
  intro rs pred x hnodup
  refine ⟨rfl, ?_, ?_, ?_, takeRecord_error⟩
  · rintro older r newer rfl hid
    exact takeRecord_replaced hnodup hid
  · rintro hnew hlen rfl
    exact takeRecord_head hnew hlen
  · rintro older p newer rfl hnew hlen rfl
    exact takeRecord_after hnodup hnew hlen

end Sys2Proof.Machine

/-!
A pulse offer (Table 3-5); the resets, the reading of the store and the ends of start hold, LISTEN, MUTED and transfer timer
(spec/10, R82, R115 to R117, R164, R175 to R177).
-/

namespace Sys2Proof.Machine

set_option Elab.async false

/-! A pulse offer. -/

section Pulse

variable {o : Outbox} {p : LocalPoint}

theorem pulseOffer_of_owed (h : o.owed[p] = true) : o.pulseOffer p = o := if_pos h

/-- With the owed-pair flag clear a pulse offer is judged by the point's entries. -/
theorem pulseOffer_of_not_owed (h : o.owed[p] = false) :
    o.pulseOffer p = match o.ofPoint p with
      | [] => (o.append (.raise p)).append (.ret p)
      | [⟨.raise _, _⟩] => o.append (.ret p)
      | [⟨.ret _, false⟩, ⟨.raise _, false⟩] => o.withdraw (.raise p)
      | [⟨.ret _, true⟩] => o.setOwed p true
      | [⟨.ret _, true⟩, ⟨.raise _, false⟩] => (o.withdraw (.raise p)).setOwed p true
      | _ => o := by
  unfold Outbox.pulseOffer
  exact if_neg (Bool.eq_false_iff.1 h)

theorem setOwed_owed (q : LocalPoint) : (o.setOwed p true).owed[q] = if q = p then true else o.owed[q] :=
  update_get _ _ _ _

theorem withdraw_eq (x : Subject) : o.withdraw x = { o with entries := o.entries.filter fun e => e != ⟨x, false⟩ } := by
  rw [← withdraw_entries]
  rfl

end Pulse

/-- Settles O31, row by row of Table 3-5. -/
theorem pulseOfferFoldsIntoThePointsEntries : Obligations.PulseOfferFoldsIntoThePointsEntries := by
  intro o p
  refine ⟨pulseOffer_of_owed, fun howed => ?_⟩
  rw [pulseOffer_of_not_owed howed]
  refine ⟨fun h => ?_, fun b h => ?_, fun h => ?_, fun h => ?_, fun h => ?_, fun h => ?_⟩
  · simp [h, Outbox.append, pendingEntry]
  · simp [h, Outbox.append, pendingEntry]
  · rcases h with h | ⟨b, h⟩
    · simp only [h]
    · cases b <;> simp only [h]
  · simp only [h, withdraw_eq]
  · simp only [h]
    exact ⟨rfl, setOwed_owed⟩
  · simp only [h]
    exact ⟨withdraw_entries o _, fun q => by simpa only [withdraw_owed] using setOwed_owed (o := o.withdraw (.raise p)) q⟩

/-! Resets (R175, Table 10-2). -/

/-- Blocks at their reset values are at the values that Table 10-2 names. -/
theorem atResetValues_of_blocks {t : State} (hlist : t.annList = AnnList.reset) (houtbox : t.outbox = Outbox.reset)
    (hline : t.line = Line.reset) (hcount : t.lineCount = 0) (hpresence : t.presence = Presence.reset)
    (hpoints : t.points = Vector.replicate 8 Point.reset) (hbuttons : t.buttons = Buttons.reset)
    (hsession : t.session = Session.reset) (htime : t.timebase = Timebase.reset) : t.atResetValues := by
  have hpeer (n : StationNo) : t.presence.peers[n] = Peer.reset := by
    rw [hpresence]
    exact resetPeers_get n
  have hpoint (p : LocalPoint) : t.points[p] = Point.reset := by
    rw [hpoints]
    exact Vector.getElem_replicate p.isLt
  have howed (p : LocalPoint) : t.outbox.owed[p] = false := by
    rw [houtbox]
    exact Vector.getElem_replicate p.isLt
  refine ⟨?_, ?_, ?_, ?_, howed, ?_, ?_, ?_, ?_, ?_, hcount, fun n => ?_, ?_, fun p => ?_, fun b => ?_, hsession, ?_⟩
  case refine_10 => rw [hpeer]; exact ⟨rfl, rfl⟩
  case refine_12 => rw [hpoint]; exact ⟨rfl, rfl, rfl, rfl⟩
  case refine_13 => rw [hbuttons]; cases b <;> exact ⟨rfl, rfl⟩
  case refine_14 => rw [htime]; exact ⟨rfl, rfl, rfl, rfl⟩
  all_goals simp only [hlist, houtbox, hline, hpresence] <;> rfl

theorem abandoned_eq (x : Selection) : x.abandoned = if x = .idle then .idle else .unserved := by cases x <;> rfl

/-- Settles O32: each of the three commands leaves `blocksReset`. -/
theorem resetsAndSupplyLossTakeEveryBlockToItsResetValues :
    Obligations.ResetsAndSupplyLossTakeEveryBlockToItsResetValues := by
  intro s selection
  have hselection : s.port.selection.abandoned = selection := abandoned_eq _
  refine ⟨⟨_, rfl, rfl, atResetValues_of_blocks rfl rfl rfl rfl rfl rfl rfl rfl rfl, rfl, rfl, rfl, rfl, hselection, ?_⟩,
    ⟨_, rfl, rfl, atResetValues_of_blocks rfl rfl rfl rfl rfl rfl rfl rfl rfl, rfl, rfl, rfl, rfl, hselection⟩,
    fun hrun => ⟨{ s.blocksReset with power := .inReset .pin }, ?_, rfl,
      atResetValues_of_blocks rfl rfl rfl rfl rfl rfl rfl rfl rfl, rfl, rfl, rfl, rfl, hselection, rfl⟩⟩
  · simp [Counters.toList, Counters.zero]
  · exact if_pos (decide_eq_true hrun : s.running = true)

/-! The reading of the store (R164, Table 12-3). -/

section Store

variable {cells : Vector Byte 26}

theorem storeVerdict_blank (h : cells[25].getLsbD 0 = false) : storeVerdict cells = some .blank := by
  simp only [storeVerdict, isCommissioned, h, Bool.not_false, if_true]

theorem storeVerdict_check (h : cells[25].getLsbD 0 = true) (hcheck : storeCheck cells ≠ cells[24]) :
    storeVerdict cells = some .check := by
  simp only [storeVerdict, isCommissioned, h, Bool.not_true, Bool.false_eq_true, if_false, if_pos hcheck]

theorem hasStrayBit_iff :
    hasStrayBit cells = true ↔ cells[0].getLsbD 7 = true ∨ 32 ≤ cells[1].toNat ∨ 2 ≤ cells[25].toNat := by
  simp only [hasStrayBit, Bool.or_eq_true, decide_eq_true_eq, or_assoc]

theorem storeVerdict_format (h : cells[25].getLsbD 0 = true) (hcheck : storeCheck cells = cells[24])
    (hstray : hasStrayBit cells = true) : storeVerdict cells = some .format := by
  simp only [storeVerdict, isCommissioned, h, Bool.not_true, Bool.false_eq_true, if_false, hcheck, ne_eq,
    not_true_eq_false, hstray, if_true]

theorem storeVerdict_none (h : cells[25].getLsbD 0 = true) (hcheck : storeCheck cells = cells[24])
    (hstray : ¬hasStrayBit cells = true) : storeVerdict cells = none := by
  simp only [storeVerdict, isCommissioned, h, Bool.not_true, Bool.false_eq_true, if_false, hcheck, ne_eq,
    not_true_eq_false, hstray]

theorem getLsbD_eq_testBit (b : Byte) (i : Nat) : b.getLsbD i = b.toNat.testBit i := rfl

/-- The half cell of a group holds its four option bits (Table 12-3). -/
theorem optionsAt_bits (g : Group) :
    let cell := cells[10 + g.val / 2]'(by omega)
    let low := if g.val % 2 = 0 then 0 else 4
    optionsAt cells g = { lockin := cell.getLsbD low, ringback := cell.getLsbD (low + 1),
                          autoclear := cell.getLsbD (low + 2), firstout := cell.getLsbD (low + 3) } := by
  intro cell low
  have hbit (i : Nat) (hi : i < 4) :
      (cell.toNat / (if g.val % 2 = 0 then 1 else 16) % 16).testBit i = cell.getLsbD (low + i) := by
    rw [getLsbD_eq_testBit, show 16 = 2 ^ 4 from rfl, Nat.testBit_mod_two_pow, decide_eq_true hi, Bool.true_and]
    unfold low
    split
    · rw [Nat.div_one, Nat.zero_add]
    · rw [Nat.testBit_div_two_pow, Nat.add_comm]
  simp only [optionsAt, groupOptionsOf]
  rw [hbit 0 (by decide), hbit 1 (by decide), hbit 2 (by decide), hbit 3 (by decide)]
  rfl

theorem window_toNat (cell : Byte) (b : Bool) :
    (BitVec.ofNat 9 (cell.toNat + bit b * 256)).toNat = cell.toNat + if b = true then 256 else 0 := by
  have hcell := cell.isLt
  cases b
  · simpa [bit] using by omega
  · simpa [bit] using by omega

theorem toNat_lt_of_bit7 {b : Byte} (h : ¬b.getLsbD 7 = true) : b.toNat < 128 := by
  rw [getLsbD_eq_testBit, Nat.testBit_eq_decide_div_mod_eq] at h
  have := b.isLt
  simp only [decide_eq_true_eq] at h
  omega

end Store

theorem startUp_atResetValues (s : State) (kind : ResetKind) : (s.startUp kind).atResetValues := by
  rw [startUp_blocks]
  exact atResetValues_of_blocks rfl rfl rfl rfl rfl rfl rfl rfl rfl

/-- What the end of a reset says of the settings in use, where the store passes (Table 12-3). -/
theorem settingsOf_table123 {cells : Vector Byte 26}
    (hstray : ¬(cells[0].getLsbD 7 = true ∨ 32 ≤ cells[1].toNat ∨ 2 ≤ cells[25].toNat)) :
    let u := settingsOf cells
    u.number.val = cells[0].toNat % 32 ∧ u.rate.val = cells[0].toNat / 32
    ∧ u.interval.val = cells[1].toNat % 4 ∧ u.lossGroup.val = cells[1].toNat / 4
    ∧ (∀ p : LocalPoint,
        let cell := cells[2 + p.val]'(by omega)
        (u.points[p]).group.val = cell.toNat % 8 ∧ ((u.points[p]).mode = .pulse ↔ cell.getLsbD 3 = true)
        ∧ (u.points[p]).activeLow = cell.getLsbD 4 ∧ (u.points[p]).debounce.val = cell.toNat / 32)
    ∧ (∀ g : Group,
        let cell := cells[10 + g.val / 2]'(by omega)
        let low := if g.val % 2 = 0 then 0 else 4
        (u.options[g]).lockin = cell.getLsbD low ∧ (u.options[g]).ringback = cell.getLsbD (low + 1)
        ∧ (u.options[g]).autoclear = cell.getLsbD (low + 2) ∧ (u.options[g]).firstout = cell.getLsbD (low + 3))
    ∧ u.coverage = cells[14]
    ∧ (∀ n : Lamp,
        (u.windows[n]).toNat
          = (cells[15 + n.val]'(by omega)).toNat + (if cells[23].getLsbD n.val = true then 256 else 0))
    ∧ u.digest = checkOf
        [BitVec.ofNat 8 u.rate.val, BitVec.ofNat 8 u.interval.val, BitVec.ofNat 8 u.lossGroup.val,
          cells[10], cells[11], cells[12], cells[13]] := by
  intro u
  simp only [not_or, not_le] at hstray
  obtain ⟨hseven, hone, -⟩ := hstray
  have hzero := toNat_lt_of_bit7 hseven
  refine ⟨rfl, Nat.mod_eq_of_lt (by omega), rfl, Nat.mod_eq_of_lt (by omega), fun p => ?_, fun g => ?_, rfl,
    fun n => ?_, rfl⟩
  · have hpoint : u.points[p] = pointSettingsOf (cells[2 + p.val]'(by omega)) := Vector.getElem_ofFn p.isLt
    have hlt := (cells[2 + p.val]'(by omega)).isLt
    rw [hpoint]
    refine ⟨rfl, ?_, rfl, Nat.mod_eq_of_lt (by omega)⟩
    simp only [pointSettingsOf]
    split
    case isTrue h => exact iff_of_true rfl h
    case isFalse h => exact iff_of_false nofun h
  · have hoptions : u.options[g] = optionsAt cells g := Vector.getElem_ofFn g.isLt
    rw [hoptions, optionsAt_bits]
    exact ⟨rfl, rfl, rfl, rfl⟩
  · have hwindow : u.windows[n] = BitVec.ofNat 9
        ((cells[15 + n.val]'(by omega)).toNat + bit (cells[23].getLsbD n.val) * 256) := Vector.getElem_ofFn n.isLt
    rw [hwindow, window_toNat]

/-- Settles O33: either command answers `startUp`, whose station and settings are those of the store's verdict. -/
theorem endOfAResetReadsTheStore : Obligations.EndOfAResetReadsTheStore := by
  intro s c kind hc
  have hstart : ∃ p : Port, exec c s = .next (({ s with port := p }).startUp kind)
      ∧ p.counters = s.port.counters
      ∧ p.selection.abandoned = if c = .restart ∨ s.port.selection = .idle then .idle else .unserved := by
    rcases hc with ⟨rfl, hpower⟩ | ⟨rfl, rfl, hserves, hburn⟩
    · refine ⟨s.port, ?_, rfl, by simp [abandoned_eq]⟩
      change execResetEnd s = _
      unfold execResetEnd
      split
      next kind' h =>
        obtain rfl : kind' = kind := by cases h.symm.trans hpower; rfl
        rfl
      all_goals next h => cases h.symm.trans hpower
    · refine ⟨{ s.port with selection := .idle }, ?_, rfl, by simp [Selection.abandoned]⟩
      change Host.Outcome.next (s.request 0x1F fun x => x.endUnserved.startUp .restart) = _
      rw [request_taken hserves hburn]
      rfl
  obtain ⟨p, hexec, hcounters, hselection⟩ := hstart
  set v : State := { s with port := p } with hv
  have hstore : (v.startUp kind).store = s.store := by rw [startUp_blocks]; rfl
  have hport : (v.startUp kind).port = { v.blocksReset.port with latches := Latches.reset, cause := kind } := by
    rw [startUp_blocks]
  refine ⟨v.startUp kind, hexec, by rw [startUp_blocks], startUp_atResetValues v kind, by rw [hport], by rw [hport]; rfl,
    by rw [hport]; rfl, hstore, by rw [hport]; exact hcounters, by rw [hport]; exact hselection, fun hblank => ?_,
    fun hcomm => ⟨fun hcheck => ?_, fun hcheck hstray => ?_, fun hcheck hstray => ?_⟩⟩
  all_goals rcases startUp_cases v kind with ⟨hverdict, hst, hset⟩ | ⟨cause, hverdict, hst, hset⟩
  · cases hverdict.symm.trans (storeVerdict_blank hblank)
  · obtain rfl := Option.some.inj (hverdict.symm.trans (storeVerdict_blank hblank))
    exact ⟨hst, hset⟩
  · cases hverdict.symm.trans (storeVerdict_check hcomm hcheck)
  · obtain rfl := Option.some.inj (hverdict.symm.trans (storeVerdict_check hcomm hcheck))
    exact ⟨hst, hset⟩
  · cases hverdict.symm.trans (storeVerdict_format hcomm hcheck (hasStrayBit_iff.2 hstray))
  · obtain rfl := Option.some.inj (hverdict.symm.trans (storeVerdict_format hcomm hcheck (hasStrayBit_iff.2 hstray)))
    exact ⟨hst, hset⟩
  · exact ⟨hst, _, hset, settingsOf_table123 hstray⟩
  · cases hverdict.symm.trans (storeVerdict_none hcomm hcheck fun h => hstray (hasStrayBit_iff.1 h))

end Sys2Proof.Machine

namespace Sys2Proof.Machine

set_option Elab.async false

/-! FAULT is on in every state but ACTIVE, so an event that begins elsewhere sets no FAULT latch (R159, R160). -/

theorem faultOn_of_not_active {s : State} (h : s.station ≠ .active) : s.faultOn = true := by
  simp [State.faultOn, State.isActive, h]

theorem judgeFault_of_faultOn {s : State} (h : s.faultOn = true) (t : State) : judgeFault s t = t := by
  simp [judgeFault, h, Port.noteFault]

theorem judgeFault_of_not_active {s : State} (h : s.station ≠ .active) (t : State) : judgeFault s t = t :=
  judgeFault_of_faultOn (faultOn_of_not_active h) t

theorem not_active_of_timerOver {st : Station} (h : st.timerOver = true) : st ≠ .active := by
  rintro rfl
  exact absurd h (by decide)

/-! Entries to JOINING. -/

/-- An entry to JOINING after an event that leaves station, strikes, points and the outer state as they were (R101). -/
theorem joinsWith_enterJoining {s u : State} (hstation : u.station = s.station)
    (hstrikes : u.line.strikes = s.line.strikes) (hpoints : u.points = s.points) (hout : s.sameOutside u) (r : Reason) :
    s.joinsWith (judgeFault s (u.enterJoining r)) r := by
  have hstrikes' : strikesOnLeaving u.station u.line.strikes
      = (match s.station with | .muted _ _ => 0 | _ => s.line.strikes) := by
    rw [hstation, hstrikes]
    rfl
  refine ⟨rfl, rfl, rfl, fun n => ?_, hstrikes', hpoints, rfl,
    State.sameOutside_trans (State.sameOutside_trans hout (u.enterJoining_sameOutside r)) (judgeFault_sameOutside _ _)⟩
  have hpeer : (judgeFault s (u.enterJoining r)).presence.peers[n] = Peer.reset := resetPeers_get n
  exact ⟨by rw [State.peerState, hpeer]; rfl, by rw [hpeer]; rfl⟩

/-! Frames at the end of a timer (log entry 20). -/

theorem takeTimerEnd_station {s : State} (h : s.station.timerOver = true) :
    s.takeTimerEnd.station = .joining .asking := by
  unfold State.takeTimerEnd
  simp only [Station.timerOver, Bool.or_eq_true, or_assoc] at h
  split
  · rfl
  split
  · rfl
  split
  · rfl
  · next hl ht hm => exact absurd h (by simp [hl, ht, hm])

theorem takeTimerEnd_power (s : State) : s.takeTimerEnd.power = s.power := by
  unfold State.takeTimerEnd
  split
  · rfl
  split
  · rfl
  split <;> rfl

theorem takeTimerEnd_held (s : State) : s.takeTimerEnd.line.held = s.line.held := by
  unfold State.takeTimerEnd
  split
  · rfl
  split
  · rfl
  split <;> rfl

/-- The line cells of a whole frame are those that the station reads of it (R62). -/
theorem frameCellsRead_of_length {cells : List Level} (h : cells.length = 10 * bytesRead cells) :
    frameCellsRead cells = cells := by
  unfold frameCellsRead
  rw [← h]
  apply List.ext_getElem (by simp)
  intro i hi hi'
  simp [cellAt, List.getD_eq_getElem?_getD, List.getElem?_eq_getElem hi']

section Frames

variable {s : State} {x : InFrame}

theorem exec_receivedFrameOutcome_of_checked (hs : s.inService = true) (hframe : s.line.frame = some x)
    (hrole : x.role = .receiver) (hheard : x.heard ≠ .unchecked) (hheld : s.line.held ≤ 8) (slots : Slots) :
    exec (.receivedFrameOutcome slots) s = .next (judgeFault s (s.takeTimerEnd.endReceivedFrame x slots)) := by
  have hrun : slotRun s.line x ≤ 8 := by
    unfold slotRun
    split
    · omega
    · split <;> omega
  have hlasts : (s.inService && !abandonedInSlots s.line x slots) = true := by
    rw [hs, not_abandonedInSlots_of_run hrun]
    rfl
  change execReceivedFrameOutcome slots s = _
  unfold execReceivedFrameOutcome
  rw [hframe]
  obtain ⟨cell, role, heard, drive⟩ := x
  obtain rfl : role = .receiver := hrole
  cases heard with
  | unchecked => exact absurd rfl hheard
  | formatError => exact if_pos hlasts
  | wellFormed f => exact if_pos hlasts

theorem exec_frameChecked_of_cells (hs : s.inService = true) (hframe : s.line.frame = some x)
    (hrole : x.role = .receiver ∨ ∃ f, x.role = .collided f) (hheard : x.heard = .unchecked) {cells : List Level}
    (hlength : cells.length = 10 * bytesRead cells) (hrun : runReaches 0 cells = false) :
    exec (.frameChecked cells) s = .next (judgeFault s (s.takeTimerEnd.checkFrame x cells)) := by
  change execFrameChecked cells s = _
  unfold execFrameChecked
  rw [hframe, frameCellsRead_of_length hlength, hs, hrun]
  obtain ⟨cell, role, heard, drive⟩ := x
  obtain rfl : heard = .unchecked := hheard
  rcases hrole with h | ⟨f, h⟩ <;> obtain rfl : role = _ := h <;> rfl

end Frames

/-- The three commands that take the end of a timer take the one that is due. -/
theorem exec_timerEnd {s t : State} {c : Instr} (hrun : s.power = .running)
    (hc : (c = .listenEnd ∧ s.station = .listen 3)
      ∨ (c = .transferTimeout ∧ (s.station = .joining (.admitted 4) ∨ s.station = .joining (.filling 4)))
      ∨ (c = .mutedTimerExpiry ∧ ∃ lost, s.station = .muted 64 lost)) (h : exec c s = .next t) :
    s.station.timerOver = true ∧ t = s.takeTimerEnd := by
  have hrunning : s.running = true := decide_eq_true hrun
  have hover : s.station.timerOver = true := by
    rcases hc with ⟨-, h⟩ | ⟨-, h | h⟩ | ⟨-, lost, h⟩ <;> rw [h] <;> rfl
  have hjudge := judgeFault_of_not_active (not_active_of_timerOver hover)
  have hexec : exec c s = .next s.takeTimerEnd := by
    rcases hc with ⟨rfl, hst⟩ | ⟨rfl, hst | hst⟩ | ⟨rfl, lost, hst⟩
    · change execListenEnd s = _
      rw [execListenEnd, hrunning, State.takeTimerEnd, hst, hjudge]
      rfl
    · change execTransferTimeout s = _
      rw [execTransferTimeout, hrunning, State.takeTimerEnd, hst, hjudge]
      rfl
    · change execTransferTimeout s = _
      rw [execTransferTimeout, hrunning, State.takeTimerEnd, hst, hjudge]
      rfl
    · change execMutedTimerExpiry s = _
      rw [execMutedTimerExpiry, hrunning, State.takeTimerEnd, hst, hjudge]
      rfl
  exact ⟨hover, Host.Outcome.next.inj (h.symm.trans hexec)⟩

/-- A station at the end of a timer and the station that has taken it end or check a received frame alike (log entry 20). -/
theorem frames_after_timerEnd {s : State} {x : InFrame} (hrun : s.power = .running)
    (hover : s.station.timerOver = true) (hframe : s.line.frame = some x) (hrole : x.role = .receiver) :
    (∀ slots, x.heard ≠ .unchecked → s.line.held ≤ 8 →
      exec (.receivedFrameOutcome slots) s = .next (s.takeTimerEnd.endReceivedFrame x slots)
      ∧ exec (.receivedFrameOutcome slots) s.takeTimerEnd = .next (s.takeTimerEnd.endReceivedFrame x slots))
    ∧ ∀ cells, x.heard = .unchecked → cells.length = 10 * bytesRead cells → runReaches 0 cells = false →
      exec (.frameChecked cells) s = exec (.frameChecked cells) s.takeTimerEnd := by
  have hafter : s.takeTimerEnd.station = .joining .asking := takeTimerEnd_station hover
  have hs : s.inService = true := by
    simp [State.inService, State.running, hrun, Station.inService_of_timerOver hover]
  have hs' : s.takeTimerEnd.inService = true := by
    simp [State.inService, State.running, takeTimerEnd_power, hrun, hafter, Station.inService]
  have htwice : s.takeTimerEnd.takeTimerEnd = s.takeTimerEnd := takeTimerEnd_of_not_over (by rw [hafter]; rfl)
  have hframe' : s.takeTimerEnd.line.frame = some x := (takeTimerEnd_frame s).trans hframe
  have hjudge := judgeFault_of_not_active (not_active_of_timerOver hover)
  have hjudge' := judgeFault_of_not_active (s := s.takeTimerEnd) (by rw [hafter]; nofun)
  refine ⟨fun slots hheard hheld => ⟨?_, ?_⟩, fun cells hheard hlength hrun => ?_⟩
  · rw [exec_receivedFrameOutcome_of_checked hs hframe hrole hheard hheld, hjudge]
  · rw [exec_receivedFrameOutcome_of_checked hs' hframe' hrole hheard (by rwa [takeTimerEnd_held]), htwice, hjudge']
  · rw [exec_frameChecked_of_cells hs hframe (.inl hrole) hheard hlength hrun, hjudge,
      exec_frameChecked_of_cells hs' hframe' (.inl hrole) hheard hlength hrun, htwice, hjudge']

/-- Settles O35: the three ends of timers are `takeTimerEnd`, which a frame at that moment takes first. -/
theorem startHoldListenAndMutedEndInTheirNextStates : Obligations.StartHoldListenAndMutedEndInTheirNextStates := by
  intro s hrun
  have hrunning : s.running = true := decide_eq_true hrun
  refine ⟨fun h => ?_, fun h => ?_, fun lost h => ?_, fun c t x hc hexec hframe hrole => ?_⟩
  · change execStartHoldEnd s = _
    rw [execStartHoldEnd, hrunning, h]
    rfl
  · refine ⟨judgeFault s (s.enterJoining .start), ?_, joinsWith_enterJoining rfl rfl rfl s.sameOutside_refl _, ?_⟩
    · change execListenEnd s = _
      rw [execListenEnd, hrunning, h]
      rfl
    · simp [judgeFault_of_not_active (s := s) (by rw [h]; nofun), countIf]
  · refine ⟨judgeFault s (s.enterJoining .unmute), ?_, joinsWith_enterJoining rfl rfl rfl s.sameOutside_refl _, ?_⟩
    · change execMutedTimerExpiry s = _
      rw [execMutedTimerExpiry, hrunning, h]
      rfl
    · simp [judgeFault_of_not_active (s := s) (by rw [h]; nofun), countIf]
  · obtain ⟨hover, rfl⟩ := exec_timerEnd hrun hc hexec
    obtain ⟨hend, hcheck⟩ := frames_after_timerEnd hrun hover hframe hrole
    exact ⟨fun slots hheard hheld => (hend slots hheard hheld).1.trans (hend slots hheard hheld).2.symm, hcheck⟩

/-- While the station asks, a peer's frame leaves it as it is but for the line (R89). -/
theorem endReceivedFrame_asking {s : State} {x : InFrame} {f : Frame} (hs : s.station = .joining .asking)
    (hheard : x.heard = .wellFormed f) (hsender : f.sender ≠ s.own) (slots : Slots) :
    s.endReceivedFrame x slots = { s with line := s.line.endFrame x slots } := by
  rw [endReceivedFrame_of_peer hheard hsender, hheard]
  simp only [State.receiverOutcome, State.mapLine, hs]

/-- Settles O36: the timeout is `retryJoin`, and a peer's frame finds the station asking. -/
theorem transferTimeoutAsksAgainWithReasonRetry : Obligations.TransferTimeoutAsksAgainWithReasonRetry := by
  intro s hrun hempty hstation
  have hrunning : s.running = true := decide_eq_true hrun
  have hover : s.station.transferOver = true := by rcases hstation with h | h <;> rw [h] <;> rfl
  have htimer : s.station.timerOver = true := by simp [Station.timerOver, hover]
  have hlisten : s.station.listenOver = false := by rcases hstation with h | h <;> rw [h] <;> rfl
  have htake : s.takeTimerEnd = s.retryJoin := by simp [State.takeTimerEnd, hlisten, hover]
  have hjudge := judgeFault_of_not_active (not_active_of_timerOver htimer)
  refine ⟨s.retryJoin, ?_, rfl, rfl, ?_, rfl, rfl, rfl, rfl, rfl, rfl, s.retryJoin_sameOutside,
    fun f slots cell drive hheld hsender hframe => ?_⟩
  · change execTransferTimeout s = _
    rw [execTransferTimeout, hrunning, hover, hjudge]
    rfl
  · exact retryJoin_entries hempty
  · set x : InFrame := { cell := cell, role := .receiver, heard := .wellFormed f, drive := drive } with hx
    obtain ⟨hbefore, hafter⟩ := (frames_after_timerEnd hrun htimer hframe rfl).1 slots nofun (by omega)
    have hpeer := endReceivedFrame_asking (s := s.retryJoin) (x := x) rfl rfl hsender slots
    rw [htake, hpeer] at hbefore hafter
    exact ⟨_, endFrame_leftFrame _ x slots, hbefore, hafter⟩

end Sys2Proof.Machine

namespace Sys2Proof.Machine

set_option Elab.async false

/-! One sample (R136, R150). -/

/-- A sample by the change mark, the level and the run: it waits, ends the run, lengthens it or completes it (R136). -/
theorem Point.sample_cases (e : Point) (count : Nat) (abnormal : Bool) :
    (e.due = true → e.sample count abnormal = e)
    ∧ (e.due = false → abnormal = e.abnormal → e.sample count abnormal = { e with run := 0 })
    ∧ (e.due = false → abnormal ≠ e.abnormal → e.run + 1 < count → e.sample count abnormal = { e with run := e.run + 1 })
    ∧ (e.due = false → abnormal ≠ e.abnormal → count ≤ e.run + 1 →
        e.sample count abnormal = { e with run := 0, due := true }) := by
  unfold Point.sample
  refine ⟨fun h => if_pos h, fun h hlevel => ?_, fun h hlevel hrun => ?_, fun h hlevel hrun => ?_⟩
  · rw [if_neg (by simp [h]), if_pos hlevel]
  · rw [if_neg (by simp [h]), if_neg hlevel, if_pos hrun]
  · rw [if_neg (by simp [h]), if_neg hlevel, if_neg (by omega)]

/-- A button's sample, as a point's (R150). -/
theorem ButtonEntry.sample_cases (e : ButtonEntry) (pressed : Bool) :
    (e.due = true → e.sample pressed = e)
    ∧ (e.due = false → pressed = e.pressed → e.sample pressed = { e with run := 0 })
    ∧ (e.due = false → pressed ≠ e.pressed → e.run + 1 < 8 → e.sample pressed = { e with run := e.run + 1 })
    ∧ (e.due = false → pressed ≠ e.pressed → 8 ≤ e.run + 1 → e.sample pressed = { e with run := 0, due := true }) := by
  unfold ButtonEntry.sample
  refine ⟨fun h => if_pos h, fun h hlevel => ?_, fun h hlevel hrun => ?_, fun h hlevel hrun => ?_⟩
  · rw [if_neg (by simp [h]), if_pos hlevel]
  · rw [if_neg (by simp [h]), if_neg hlevel]
    exact if_pos hrun
  · rw [if_neg (by simp [h]), if_neg hlevel]
    exact if_neg (by simp [Config.buttonDebounce]; omega)

theorem samplePoints_get (c : Settings) (fields : BitVec 8) (pts : Vector Point 8) (p : LocalPoint) :
    (samplePoints c fields pts)[p]
      = (pts[p]).sample (c.points[p]).count (abnormalSample c.points[p] (fields.getLsbD p.val)) :=
  Vector.getElem_ofFn p.isLt

theorem sampleButtons_get (levels : BitVec 4) (bs : Buttons) (b : Button) :
    (sampleButtons levels bs).get b = (bs.get b).sample (pressedSample (levels.getLsbD (buttonIndex b))) := by
  cases b <;> rfl

/-- Settles O37: the tick samples in service, and is counted by the counts that run. -/
theorem sampleTickRunsEveryPointAndButton : Obligations.SampleTickRunsEveryPointAndButton := by
  intro s fields buttons hrun ticks
  have hrunning : s.running = true := decide_eq_true hrun
  have hin : s.inService = s.station.inService := by rw [State.inService, hrunning, Bool.true_and]
  have hexec : exec (.sampleTick fields buttons) s
      = .next ((s.sampleTick fields buttons).countTicks s.timebase.ticksToSample) := if_pos hrunning
  have hin' : (s.sampleTick fields buttons).inService = s.station.inService := hin
  have hsampling : ({ s with timebase := s.timebase.sampled } : State).inService = s.station.inService := hin
  refine ⟨_, hexec, ?_, fun hout => ?_, fun hservice => ⟨fun p => ?_, fun b => ?_⟩⟩
  · unfold State.countTicks
    rw [hin']
    rfl
  · have hoff : (s.sampleTick fields buttons).points = s.points ∧ (s.sampleTick fields buttons).buttons = s.buttons := by
      simp only [State.sampleTick, State.sample, hsampling, hout, Bool.false_eq_true, if_false, and_self]
    exact hoff
  · have hpoint : ((s.sampleTick fields buttons).points)[p]
        = (s.points[p]).sample (s.inUse.points[p]).count
            (abnormalSample s.inUse.points[p] (fields.getLsbD p.val)) := by
      simp only [State.sampleTick, State.sample, hsampling, hservice, if_true]
      exact samplePoints_get _ _ _ _
    have hcases := Point.sample_cases (s.points[p]) (s.inUse.points[p]).count
      (abnormalSample s.inUse.points[p] (fields.getLsbD p.val))
    rw [← hpoint] at hcases
    exact hcases
  · have hbutton : ((s.sampleTick fields buttons).buttons).get b
        = (s.buttons.get b).sample (pressedSample (buttons.getLsbD (buttonIndex b))) := by
      simp only [State.sampleTick, State.sample, hsampling, hservice, if_true]
      exact sampleButtons_get _ _ _
    have hcases := ButtonEntry.sample_cases (s.buttons.get b) (pressedSample (buttons.getLsbD (buttonIndex b)))
    rw [← hbutton] at hcases
    exact hcases

/-! Transitions and presses (R137 to R141, R150, R151). -/

theorem isActive_iff (s : State) : s.isActive = true ↔ s.station = .active := decide_eq_true_iff

/-- An offer is considered while the station is ACTIVE alone (R45). -/
theorem offer_outbox (s : State) (f : Outbox → Outbox) :
    (s.offer f).outbox = if s.station = .active then f s.outbox else s.outbox := by
  simp only [State.offer, isActive_iff]

/-- Settles O38: the level turns, and the offer follows mode and level reached. -/
theorem debouncedTransitionSetsTheLatchAndIsOffered : Obligations.DebouncedTransitionSetsTheLatchAndIsOffered := by
  intro s p hs hdue
  have hexec : exec (.debouncedTransition p) s = .next (s.transition p) := if_pos (by rw [hs, hdue]; rfl)
  have hpoints (q : LocalPoint) :
      (s.transition p).points[q] = if q = p then (s.points[p]).transition else s.points[q] := update_get _ _ _ _
  have houtbox : (s.transition p).outbox
      = if s.station = .active then transitionOffers (s.pointSettings p).mode (!(s.points[p]).abnormal) p s.outbox
        else s.outbox := offer_outbox (s.mapPoint p Point.transition) _
  refine ⟨s.transition p, hexec, rfl, by rw [hpoints, if_pos rfl]; rfl, fun q hq => by rw [hpoints, if_neg hq],
    fun hst => by rw [houtbox, if_neg hst], fun hst => ?_⟩
  rw [houtbox, if_pos hst]
  refine ⟨fun hmode hlevel => ?_, fun hmode hlevel => ⟨fun hnewest => ?_, fun hnewest => ?_⟩, fun hmode hlevel => ?_,
    fun hmode hlevel => ?_⟩
  all_goals simp only [State.pointSettings, hmode, hlevel, transitionOffers, Bool.not_true, Bool.not_false]
  · exact if_pos hnewest
  · exact if_neg hnewest

/-- The entry of an offered group action joins where none of its kind is pending (R52, R152). -/
theorem groupOffer_eq (o : Outbox) (k : GroupKind) :
    o.groupOffer k = if (⟨k.subject, false⟩ : Entry) ∈ o.entries then o
      else { o with entries := o.entries ++ [⟨k.subject, false⟩] } := by
  have hpending : o.entries.any (isPending k.subject) = true ↔ (⟨k.subject, false⟩ : Entry) ∈ o.entries := by
    rw [List.any_eq_true]
    refine ⟨fun ⟨⟨x, b⟩, hmem, he⟩ => ?_, fun h => ⟨_, h, by simp [isPending]⟩⟩
    simp only [isPending, Bool.and_eq_true, beq_iff_eq, Bool.not_eq_true'] at he
    obtain ⟨rfl, rfl⟩ := he
    exact hmem
  simp only [Outbox.groupOffer, hpending]
  rfl

/-- A press by station state, coverage and pending entry (R151, R152). -/
theorem press_outbox (s : State) (k : GroupKind) :
    (s.press k).outbox
      = if s.station = .active ∧ s.inUse.coverage ≠ 0 ∧ (⟨k.subject, false⟩ : Entry) ∉ s.outbox.entries then
          { s.outbox with entries := s.outbox.entries ++ [⟨k.subject, false⟩] }
        else s.outbox := by
  unfold State.press
  rw [offer_outbox, groupOffer_eq]
  by_cases hst : s.station = .active
  · by_cases hcov : s.inUse.coverage = 0
    · simp only [hcov, if_true, ne_eq, not_true_eq_false, false_and, and_false, if_false, ite_self]
    · by_cases hmem : (⟨k.subject, false⟩ : Entry) ∈ s.outbox.entries <;> simp only [hst, hcov, hmem, if_true, if_false, ne_eq, not_true_eq_false, not_false_eq_true, and_false, and_self]
  · simp [hst]

theorem changeButton_outbox (s : State) (b : Button) :
    (s.changeButton b).outbox = match actionOf b with
      | some k => if (s.buttons.get b).pressed = true then s.outbox else (s.press k).outbox
      | none => s.outbox := by
  unfold State.changeButton
  cases actionOf b with
  | none => rfl
  | some k =>
    cases h : (s.buttons.get b).pressed <;> simp only [ButtonEntry.change, h] <;> rfl

theorem changeButton_frame (s : State) (b : Button) :
    s.changeButton b
      = { s with buttons := s.buttons.put b (s.buttons.get b).change, outbox := (s.changeButton b).outbox } := by
  unfold State.changeButton
  cases actionOf b with
  | none => rfl
  | some k => cases h : (s.buttons.get b).change.pressed <;> simp only [h] <;> rfl

/-- The button byte that names a group action (R195). -/
def GroupKind.byte : GroupKind → Byte
  | .ack => 1
  | .silence => 2
  | .clear => 3

theorem pressKind_eq_some {button : Byte} {k : GroupKind} (h : pressKind button = some k) : button = k.byte := by
  unfold pressKind at h
  split at h <;> cases h <;> exact BitVec.eq_of_toNat_eq ‹_›

/-- Settles O40: a change of a button and a PRESS both end in `press`. -/
theorem pressOffersItsGroupActionWhileActiveAndCovering : Obligations.PressOffersItsGroupActionWhileActiveAndCovering := by
  intro s offered
  refine ⟨fun b hs hdue => ?_, fun button hserves hburn => ?_⟩
  · have hexec : exec (.buttonDebouncedChange b) s = .next (s.changeButton b) := if_pos (by rw [hs, hdue]; rfl)
    have hframe := changeButton_frame s b
    have hbuttons : (s.changeButton b).buttons = s.buttons.put b (s.buttons.get b).change := by rw [hframe]
    refine ⟨s.changeButton b, hexec, by rw [hbuttons]; exact hframe, ?_, fun c hc => ?_, fun h => ?_, fun h => ?_⟩
    · rw [hbuttons, Buttons.get_put, if_pos rfl]
      rfl
    · rw [hbuttons, Buttons.get_put, if_neg hc]
    · rw [changeButton_outbox]
      rcases h with h | rfl
      · cases actionOf b with
        | none => rfl
        | some k => exact if_pos h
      · rfl
    · refine ⟨?_, ?_, ?_⟩ <;> rintro rfl <;> rw [changeButton_outbox] <;>
        exact (if_neg (by rw [h]; nofun)).trans (press_outbox s _)
  · have hexec : exec (.press button) s = .next (s.pressJudged button) :=
      congrArg Host.Outcome.next (request_taken hserves hburn 0x08 _)
    refine ⟨s.pressJudged button, hexec, ?_⟩
    unfold State.pressJudged
    cases hk : pressKind button with
    | none =>
      have hrange : button.toNat = 0 ∨ 3 < button.toNat := by
        by_contra hcon
        have : button.toNat = 1 ∨ button.toNat = 2 ∨ button.toNat = 3 := by omega
        rcases this with h | h | h <;> rw [pressKind, h] at hk <;> cases hk
      exact ⟨rfl, rfl, rfl, rfl, fun _ => ⟨respond_answered s .range 8 [], rfl⟩, fun h1 h3 => by omega⟩
    | some k =>
      have hbutton : button = k.byte := pressKind_eq_some hk
      have hne : ¬(button.toNat = 0 ∨ 3 < button.toNat) := by
        rw [hbutton]
        cases k <;> decide
      have hoffer : (if s.station = .active then (s.press k).outbox else s.outbox) = offered k.subject := by
        by_cases hst : s.station = .active
        · rw [if_pos hst, press_outbox]
        · exact (if_neg hst).trans (if_neg fun h => hst h.1).symm
      have hthree (o : Outbox) (ho : o = offered k.subject) : (button = 1 → o = offered .ack)
          ∧ (button = 2 → o = offered .silence) ∧ (button = 3 → o = offered .clear) := by
        subst hbutton
        cases k
        · exact ⟨fun _ => ho, fun h => absurd h (by decide), fun h => absurd h (by decide)⟩
        · exact ⟨fun h => absurd h (by decide), fun _ => ho, fun h => absurd h (by decide)⟩
        · exact ⟨fun h => absurd h (by decide), fun h => absurd h (by decide), fun _ => ho⟩
      by_cases hst : s.station = .active
      · rw [if_pos hst] at hoffer ⊢
        simp only [(isActive_iff s).2 hst, if_true]
        exact ⟨rfl, rfl, rfl, rfl, fun h => absurd h hne,
          fun _ _ => ⟨respond_answered (s.press k) .ok 8 [], hthree _ hoffer⟩⟩
      · have hoff : s.isActive = false := decide_eq_false hst
        rw [if_neg hst] at hoffer ⊢
        simp only [hoff, Bool.false_eq_true, if_false]
        exact ⟨rfl, rfl, rfl, rfl, fun h => absurd h hne,
          fun _ _ => ⟨respond_answered s .refused 8 [], hthree _ hoffer⟩⟩

/-! Boundaries and limits (R127 to R129, R174). -/

theorem Peer.boundary_of_counts {e : Peer} (h : e.state.counts = true) :
    e.boundary = { e with silence := min 8 (e.silence + 1), due := decide (8 ≤ e.silence + 1) } := by
  rw [Peer.boundary, if_pos h]
  rfl

theorem Peer.boundary_of_not_counts {e : Peer} (h : e.state.counts = false) : e.boundary = { e with due := false } := by
  rw [Peer.boundary, h]
  rfl

theorem PeerState.counts_iff (x : PeerState) : x.counts = true ↔ x = .joining ∨ x = .active := by
  cases x <;> simp [PeerState.counts]

/-- Settles O42, entry by entry and state by state. -/
theorem boundaryAdvancesTheCountersThatRun : Obligations.BoundaryAdvancesTheCountersThatRun := by
  intro s hs
  have hexec : exec .rollIntervalBoundary s = .next s.boundary := if_pos hs
  refine ⟨s.boundary, hexec, ?_, fun n => ?_, fun h => ?_, fun h => ?_, fun n h => ?_, fun h => ?_, fun k h => ?_,
    fun k h => ?_, fun k lost h => ?_, fun h => ?_⟩
  · have hticks : s.inUse.rollTicks
        = (match s.inUse.interval with | 0 => 100 | 1 => 250 | 2 => 500 | 3 => 1000) := by
      unfold Settings.rollTicks
      generalize s.inUse.interval = i
      fin_cases i <;> rfl
    exact congrArg (fun k : Nat => ({ s.boundary with
      timebase := { s.timebase with rollTicks := s.timebase.rollTicks - k } } : State)) hticks
  · have hpeer : s.boundary.presence.peers[n] = (s.presence.peers[n]).boundary := Vector.getElem_map _ n.isLt
    rw [hpeer]
    generalize s.presence.peers[n] = e
    refine ⟨?_, fun hst => ?_, fun hst => ?_⟩
    · unfold Peer.boundary
      split <;> rfl
    · rw [Peer.boundary_of_counts ((PeerState.counts_iff _).2 hst)]
      exact ⟨rfl, by simp only [decide_eq_true_eq]; omega⟩
    · rw [Peer.boundary_of_not_counts]
      · exact ⟨rfl, rfl⟩
      · exact Bool.eq_false_iff.2 fun hc => ((PeerState.counts_iff _).1 hc).elim hst.1 hst.2
  · have hactive : s.isActive = true := (isActive_iff s).2 h
    have hquiet : s.boundary.presence.quiet = min 2 (s.presence.quiet + 1) := by
      simp only [State.boundary, Presence.boundary, hactive, if_true]
      rfl
    refine ⟨by simp only [State.boundary, h, Station.boundary], hquiet, ?_⟩
    rw [hquiet]
    have hdue : s.boundary.presence.quietDue = decide (2 ≤ s.presence.quiet + 1) := by
      simp only [State.boundary, Presence.boundary, hactive, Bool.true_and, Config.quietLimit]
      rfl
    rw [hdue, decide_eq_true_eq]
    omega
  · have hactive : s.isActive = false := decide_eq_false h
    simp only [State.boundary, Presence.boundary, hactive, Bool.false_eq_true, if_false, Bool.false_and, and_self]
  all_goals simp only [State.boundary, h, Station.boundary] <;> rfl

theorem lossOffer_eq (o : Outbox) (n : StationNo) :
    o.lossOffer n = if o.has (.loss n) = false ∧ o.has (.transferRoll n) = false then
        { o with entries := o.entries ++ [⟨.loss n, false⟩] } else o := by
  unfold Outbox.lossOffer
  cases o.has (.loss n) <;> cases o.has (.transferRoll n) <;> rfl

theorem presenceRollOffer_eq (o : Outbox) :
    o.presenceRollOffer = if o.has .presenceRoll = false then
        { o with entries := o.entries ++ [⟨.presenceRoll, false⟩] } else o := by
  unfold Outbox.presenceRollOffer
  cases o.has .presenceRoll <;> rfl

/-- Settles O43: at its limit each counter makes its offer. -/
theorem limitsOfferALossAndAPresenceRoll : Obligations.LimitsOfferALossAndAPresenceRoll := by
  intro s hs
  refine ⟨fun n hn hdue hsilence hstate => ?_, fun hdue hquiet => ?_⟩
  · have hexec : exec (.silenceLimit n) s = .next (s.offerLossAtLimit n) := if_pos (by rw [hs, decide_eq_true hn, hdue]; rfl)
    have hpeers (m : StationNo) : (s.offerLossAtLimit n).presence.peers[m]
        = if m = n then { s.presence.peers[n] with due := false } else s.presence.peers[m] := update_get _ _ _ _
    have hoffers : ((s.peerState n).counts && decide ((s.presence.peers[n]).silence = Config.silenceLimit)) = true := by
      rw [Bool.and_eq_true]
      exact ⟨(PeerState.counts_iff _).2 hstate, decide_eq_true hsilence⟩
    refine ⟨s.offerLossAtLimit n, hexec, rfl, by rw [hpeers, if_pos rfl], fun m hm => by rw [hpeers, if_neg hm], rfl, ?_⟩
    unfold State.offerLossAtLimit
    rw [offer_outbox, hoffers]
    by_cases hst : s.station = .active
    · simp only [hst, if_true, true_and]
      exact lossOffer_eq _ n
    · simp only [hst, if_false, false_and]
  · have hexec : exec .quietCounterLimit s = .next s.offerRollAtLimit := if_pos (by rw [hs, hdue]; rfl)
    refine ⟨s.offerRollAtLimit, hexec, rfl, ?_⟩
    unfold State.offerRollAtLimit
    rw [offer_outbox, hquiet]
    by_cases hst : s.station = .active
    · simp only [hst, if_true, true_and]
      exact presenceRollOffer_eq _
    · simp only [hst, if_false, false_and]

end Sys2Proof.Machine

namespace Sys2Proof.Machine

set_option Elab.async false

/-! The panel (R33 to R40, R154 to R159). -/

section Panel

variable (s : State)

theorem unacknowledged_iff (r : Record) : r.unacknowledged = true ↔ r.state = .alert ∨ r.state = .lapsed :=
  decide_eq_true_iff

theorem horn_iff : s.horn = true ↔ ∃ r ∈ s.annList.records, s.inUse.coverage.getLsbD r.group.val = true
    ∧ (r.state = .alert ∨ r.state = .lapsed) ∧ r.silenced = false := by
  simp only [State.horn, State.covered, inMask, List.any_eq_true, Bool.and_eq_true, unacknowledged_iff,
    Bool.not_eq_true', and_assoc]

theorem chime_iff : s.chime = true ↔ ∃ r ∈ s.annList.records, s.inUse.coverage.getLsbD r.group.val = true
    ∧ (s.inUse.options[r.group]).ringback = true ∧ r.state = .settled ∧ r.silenced = false := by
  simp only [State.chime, State.covered, inMask, State.options, Settings.optionsOf, List.any_eq_true, Bool.and_eq_true,
    decide_eq_true_eq, Bool.not_eq_true', and_assoc]

theorem common_iff : s.common = true ↔ ∃ r ∈ s.annList.records, s.inUse.coverage.getLsbD r.group.val = true
    ∧ (r.state = .alert ∨ r.state = .lapsed) := by
  simp only [State.common, State.covered, inMask, List.any_eq_true, Bool.and_eq_true, unacknowledged_iff]

theorem anyWaiting_eq_false : s.anyWaiting = false ↔ ∀ p : LocalPoint, (s.points[p]).waiting = false := by
  rw [State.anyWaiting, List.any_eq_false]
  refine ⟨fun h p => Bool.eq_false_iff.2 (h _ (Vector.mem_toList_iff.2 (Vector.getElem_mem p.isLt))), fun h x hx => ?_⟩
  obtain ⟨i, hi, rfl⟩ := Vector.mem_iff_getElem.1 (Vector.mem_toList_iff.1 hx)
  exact Bool.eq_false_iff.1 (h ⟨i, hi⟩)

theorem hasLossRecord_eq_false : s.hasLossRecord = false ↔ ∀ r ∈ s.annList.records, r.id.val < 256 := by
  simp [State.hasLossRecord, isLossPoint]

theorem faultOn_eq_false : s.faultOn = false ↔ s.station = .active ∧ s.annList.overflow = false
    ∧ (∀ r ∈ s.annList.records, r.id.val < 256) ∧ ∀ p : LocalPoint, (s.points[p]).waiting = false := by
  rw [← hasLossRecord_eq_false, ← anyWaiting_eq_false, ← isActive_iff]
  simp only [State.faultOn, Bool.not_eq_false', Bool.and_eq_true, Bool.not_eq_true', and_assoc]

variable (n : Lamp)

theorem lampPattern_of_test (h : s.buttons.test.pressed = true) : s.lampPattern n = .steady := if_pos h

theorem lampPattern_of_window (h : s.buttons.test.pressed = false) : s.lampPattern n = match s.window n with
    | none => .off
    | some p => recordPattern (findRecord s.annList.records p) := by
  unfold State.lampPattern
  exact if_neg (by rw [State.testHeld, h]; nofun)

theorem window_of_unmapped {c : Settings} (hc : s.settings = some c) (h : 287 < (c.windows[n]).toNat) :
    s.window n = none := by
  unfold State.window
  rw [hc]
  exact dif_neg (by omega)

theorem window_of_point {c : Settings} (hc : s.settings = some c) {p : PointId} (h : (c.windows[n]).toNat = p.val) :
    s.window n = some p := by
  unfold State.window
  rw [hc]
  have hlt : (c.windows[n]).toNat < 288 := by rw [h]; exact p.isLt
  exact (dif_pos hlt).trans (congrArg some (Fin.ext h))

/-- Table 9-1. -/
theorem onAt_iff (pattern : Pattern) (phase : Fin 8) :
    pattern.onAt phase = true ↔ phase ∈ (match pattern with
      | .off => ([] : List (Fin 8))
      | .steady => [0, 1, 2, 3, 4, 5, 6, 7]
      | .fast => [0, 2, 4, 6]
      | .slow => [0, 1, 2, 3]
      | .wink => [0, 1, 2, 3, 4, 5, 6]) := by
  cases pattern <;> revert phase <;> decide

/-- Settles O41: each output by its definition, the lamps by Tables 2-9 and 9-1. -/
theorem panelFollowsTheListCoverageAndFlashPhase : Obligations.PanelFollowsTheListCoverageAndFlashPhase := by
  intro s
  refine ⟨horn_iff s, chime_iff s, common_iff s, faultOn_eq_false s, ?_, fun n =>
    ⟨lampPattern_of_test s n, fun htest => ⟨fun hnone => ?_, fun c hc => ⟨fun hunmapped => ?_, fun p hp =>
      ⟨fun habsent => ?_, fun r hr => ?_⟩⟩⟩⟩, fun n => ?_, fun hrun => ?_⟩
  · rw [State.faultOutput, Bool.and_eq_true, decide_eq_true_eq]
  · rw [lampPattern_of_window s n htest, State.window, hnone]
  · rw [lampPattern_of_window s n htest, window_of_unmapped s n hc hunmapped]
  · rw [lampPattern_of_window s n htest, window_of_point s n hc hp]
    exact congrArg recordPattern habsent
  · rw [lampPattern_of_window s n htest, window_of_point s n hc hp]
    exact congrArg recordPattern hr
  · rw [State.lampOn, Bool.and_eq_true, decide_eq_true_eq]
    exact and_congr_right fun _ => onAt_iff _ _
  · have hphase : ∀ k : Fin 8, k + 1 = if k = 7 then 0 else k + 1 := by decide
    have hexec : exec .flashPhaseAdvance s = .next { s with timebase := s.timebase.advanceFlash } :=
      if_pos (decide_eq_true hrun)
    refine hexec.trans (congrArg (fun k : Fin 8 => Host.Outcome.next ({ s with timebase :=
      { s.timebase with flashTicks := s.timebase.flashTicks - 125, flashPhase := k } } : State)) (hphase _))

end Panel

/-! The start hold (R176). -/

/-- The station has held in START for `k` clock periods, its settings those of `s`, with no command waiting and no burn. -/
structure HoldsStart (s : State) (k : Nat) (t : State) : Prop where
  power : t.power = .running
  station : t.station = .start
  pending : t.pending = []
  session : t.session.phase = .closed
  settings : t.settings = s.settings
  clock : t.timebase.clock = k % 4000
  ticks : t.timebase.holdTicks = k / 4000

section Hold

variable {s t : State} {k : Nat}

theorem HoldsStart.not_inService (h : HoldsStart s k t) : t.inService = false := by
  rw [State.inService, h.station]
  exact Bool.and_false _

/-- In START a clock period is the base tick divider's (R63, R173). -/
theorem HoldsStart.step (h : HoldsStart s k t) : Machine.step t = .next t.tickClock.dueTicks := by
  have hidle : Machine.step t = idle t := by rw [Machine.step, h.pending]
  have hfollow : t.followUp = none := by rw [State.followUp, h.not_inService]; rfl
  have hline : t.lineClock = t := by rw [State.lineClock, h.not_inService]; rfl
  have hburn : t.burnClock = t := by simp [State.burnClock, State.burning, h.session]
  have hrun : t.running = true := decide_eq_true h.power
  rw [hidle, idle, hrun, hfollow]
  unfold State.clockPeriod
  rw [hline, hburn]
  rfl

/-- A base tick in START counts the hold, and leaves what the hold looks at. -/
theorem HoldsStart.baseTick (h : HoldsStart s k t) (hend : k % 4000 = 3999) :
    HoldsStart s (k + 1) ({ t with timebase := { t.timebase with clock := 0 } } : State).baseTick := by
  have hservice := h.not_inService
  have hclock : (k + 1) % 4000 = 0 := by omega
  have hticks : (k + 1) / 4000 = k / 4000 + 1 := by omega
  unfold State.baseTick State.sampleDivider
  dsimp only
  split
  · refine ⟨h.power, h.station, h.pending, h.session, h.settings, hclock.symm, ?_⟩
    simp [State.countTicks, State.sampleTick, State.sample, Timebase.sampled, h.station, h.ticks, hticks]
  · refine ⟨h.power, h.station, h.pending, h.session, h.settings, hclock.symm, ?_⟩
    simp [State.countTicks, h.station, h.ticks, hticks]

theorem HoldsStart.tickClock (h : HoldsStart s k t) : HoldsStart s (k + 1) t.tickClock := by
  unfold State.tickClock
  split
  · next hlt =>
    rw [h.clock, Config.clocksPerTick] at hlt
    exact ⟨h.power, h.station, h.pending, h.session, h.settings, by simp only [h.clock]; omega,
      by simp only [h.ticks]; omega⟩
  · next hge =>
    rw [h.clock, Config.clocksPerTick] at hge
    exact h.baseTick (by omega)

theorem HoldsStart.flashDivider (h : HoldsStart s k t) : HoldsStart s k t.flashDivider := by
  unfold State.flashDivider
  split
  · exact ⟨h.power, h.station, h.pending, h.session, h.settings, by simpa only [Timebase.advanceFlash] using h.clock,
      by simpa only [Timebase.advanceFlash] using h.ticks⟩
  · exact h

theorem HoldsStart.rollDivider (h : HoldsStart s k t) : t.rollDivider = t := by
  rw [State.rollDivider, h.not_inService]
  rfl

/-- The hold goes on until its ticks have run, and then LISTEN begins. -/
theorem HoldsStart.next (h : HoldsStart s k t) :
    (k + 1 < 16000 * (s.own.val + 1) → HoldsStart s (k + 1) t.tickClock.dueTicks)
    ∧ (k + 1 = 16000 * (s.own.val + 1) → t.tickClock.dueTicks.station = .listen 0) := by
  have hflash := h.tickClock.flashDivider
  have hown : t.tickClock.flashDivider.own = s.own := own_congr hflash.settings
  unfold State.dueTicks
  rw [hflash.rollDivider]
  unfold State.holdDivider
  rw [hown, hflash.ticks, Config.holdTicksPerNumber]
  refine ⟨fun hlt => ?_, fun heq => ?_⟩
  · rw [if_neg (fun hover => by have := hover.2; omega)]
    exact hflash
  · rw [if_pos ⟨hflash.station, by omega⟩]
    rfl

theorem steps_succ {u : State} (h : step (s.steps k) = .next u) : s.steps (k + 1) = u := by
  rw [State.steps, h]

end Hold

/-- Settles O34, by induction on the clock periods held. -/
theorem startHoldLasts16000PeriodsForEachNumber : Obligations.StartHoldLasts16000PeriodsForEachNumber := by
  intro s hrun hstation hpending hsession htime
  have hholds : ∀ k, k < 16000 * (s.own.val + 1) → HoldsStart s k (s.steps k) := by
    intro k
    induction k with
    | zero => exact fun _ => ⟨hrun, hstation, hpending, hsession, rfl, by simp [State.steps, htime], by simp [State.steps, htime]⟩
    | succ k ih =>
      intro hlt
      have hk := ih (by omega)
      rw [steps_succ hk.step]
      exact hk.next.1 hlt
  refine ⟨fun k hk => (hholds k hk).station, ?_⟩
  obtain ⟨k, hk⟩ : ∃ k, 16000 * (s.own.val + 1) = k + 1 := ⟨16000 * (s.own.val + 1) - 1, by omega⟩
  have hlast := hholds k (by omega)
  rw [hk, steps_succ hlast.step]
  exact hlast.next.2 hk.symm

end Sys2Proof.Machine

namespace Sys2Proof.Machine

set_option Elab.async false

/-! The gap and the starts (R64, R65). -/

section Starts

variable {s : State} {n : Nat}

theorem counting_of_free (hfree : s.line.frame = none) (hheld : s.line.held < 12) : s.line.counting = true := by
  rw [Line.counting, hfree, Bool.and_eq_true, decide_eq_true_eq]
  exact ⟨rfl, hheld⟩

theorem readRecessive_framed (l : Line) (n : Nat) :
    (l.readRecessive n).framed = true ↔ l.framed = true ∨ min 24 (l.gap + n) = 24 := by
  change (l.framed || decide (24 ≤ l.gap + n)) = true ↔ _
  rw [Bool.or_eq_true, decide_eq_true_eq]
  exact or_congr_right (by omega)

theorem mayFollow_iff (l : Line) (n : Nat) :
    (l.readRecessive n).mayFollow = true
      ↔ 12 ≤ min 24 (l.gap + n) ∨ ((l.framed = true ∨ min 24 (l.gap + n) = 24) ∧ 11 ≤ min 24 (l.gap + n)) := by
  have hgap : (l.readRecessive n).gap = min 24 (l.gap + n) := rfl
  rw [Line.mayFollow, decide_eq_true_eq, hgap, Config.framedThreshold, Config.unframedFollow]
  by_cases hframed : (l.readRecessive n).framed = true
  · rw [if_pos hframed]
    have := (readRecessive_framed l n).1 hframed
    exact ⟨fun h => .inr ⟨this, h⟩, fun h => h.elim (by omega) And.right⟩
  · rw [if_neg hframed]
    have hnot := fun h => hframed ((readRecessive_framed l n).2 h)
    exact ⟨.inl, fun h => h.elim id fun h => absurd h.1 hnot⟩

theorem hasEligible_eq_false (h : s.outbox.choice = none) : s.hasEligible = false := by rw [State.hasEligible, h]; rfl

theorem exec_gapFramed (hs : s.inService = true) (hcounting : s.line.counting = true) (hframed : s.line.framed = false) :
    exec .gapFramed s = .next { s with line := { s.line with gap := 24, held := 0, framed := true } } :=
  if_pos (by rw [hs, hcounting, hframed]; rfl)

theorem exec_anothersStart (hs : s.inService = true) (hcounting : s.line.counting = true)
    (hfollow : (s.line.readRecessive n).mayFollow = true)
    (hown : (s.line.readRecessive n).framed = false ∨ s.hasEligible = false) :
    exec (.anothersStart n) s = .next { s with line := (s.line.readRecessive n).beginReceiving } := by
  refine if_pos ?_
  rw [hs, hcounting, hfollow, Bool.and_eq_true]
  refine ⟨rfl, ?_⟩
  rcases hown with h | h <;> rw [h]
  · rfl
  · rw [Bool.and_false]
    rfl

theorem exec_dominantCellNotAStart (hs : s.inService = true) (hcounting : s.line.counting = true)
    (hfollow : (s.line.readRecessive n).mayFollow = false) (hheld : (s.line.readRecessive n).held + 1 < 12) :
    exec (.dominantCellNotAStart n) s = .next { s with line :=
      { s.line.readRecessive n with gap := 0, held := (s.line.readRecessive n).held + 1 } } := by
  refine if_pos ?_
  rw [hs, hcounting, hfollow, Bool.and_eq_true, decide_eq_true_eq]
  exact ⟨rfl, hheld⟩

/-- Settles O44: the recessive cells read first, then the dominant cell by where the gap stands. -/
theorem cellsOutsideAFrameCountBeginAFrameOrEndTheHeldRun :
    Obligations.CellsOutsideAFrameCountBeginAFrameOrEndTheHeldRun := by
  intro s n hs gap framed run
  refine ⟨fun hfree hheld => ?_, fun hheld => if_pos ?_⟩
  · have hcounting := counting_of_free hfree hheld
    refine ⟨fun hframed => exec_gapFramed hs hcounting hframed, fun hgap hown => ?_, fun hgap hrun => ?_⟩
    · refine exec_anothersStart hs hcounting ((mayFollow_iff _ _).2 hgap) ?_
      exact hown.imp (fun h => Bool.eq_false_iff.2 fun h' => h ((readRecessive_framed _ _).1 h')) hasEligible_eq_false
    · have hfollow : (s.line.readRecessive n).mayFollow = false := by
        refine Bool.eq_false_iff.2 fun h => ?_
        have hcan : 12 ≤ gap ∨ framed ∧ 11 ≤ gap := (mayFollow_iff _ _).1 h
        rcases hgap with hlow | ⟨hframed, hlow⟩ <;> rcases hcan with hcan | ⟨hframed', hcan⟩
        · omega
        · omega
        · omega
        · exact hframed hframed'
      rw [exec_dominantCellNotAStart hs hcounting hfollow hrun]
      -- a station below the threshold is framed after the cells as it was before them
      have hsame : (s.line.readRecessive n).framed = s.line.framed := by
        have hgap' : ¬24 ≤ s.line.gap + n := by
          have hlow : gap < 12 := hgap.elim (fun h => by omega) fun h => h.2
          omega
        change (s.line.framed || decide (24 ≤ s.line.gap + n)) = s.line.framed
        rw [decide_eq_false hgap', Bool.or_false]
      exact congrArg (fun b : Bool => Host.Outcome.next ({ s with line :=
        { s.line with gap := 0, held := run + 1, framed := b } } : State)) hsame
  · rw [hs, hheld]
    rfl

/-- The walk that a roll is assembled from is the oldest for its target. -/
theorem walkFor_at {older newer : List Walk} {w : Walk} (h : s.annList.walks = older ++ w :: newer)
    (holder : ∀ v ∈ older, v.target ≠ w.target) : s.walkFor w.target = some w := by
  have hnone : older.find? (fun v => v.target == w.target) = none :=
    List.find?_eq_none.2 fun v hv => by simp [holder v hv]
  simp [State.walkFor, h, List.find?_append, hnone]

/-- Settles O45: the start takes the chosen entry in flight and assembles its frame. -/
theorem ownStartSendsTheChosenEntryAssembledNow : Obligations.OwnStartSendsTheChosenEntryAssembledNow := by
  intro s n x hs hfree hheld hgap hframed hchoice
  have hcounting := counting_of_free hfree hheld
  have hmay : (s.line.readRecessive n).mayStart = true := by
    rw [Line.mayStart, Bool.and_eq_true, decide_eq_true_eq, readRecessive_framed]
    refine ⟨hframed.imp_right fun h => by omega, ?_⟩
    change 11 ≤ min 24 (s.line.gap + n)
    omega
  have heligible : s.hasEligible = true := by rw [State.hasEligible, hchoice]; rfl
  have hexec : exec (.ownStart n) s = .next (s.mapLine fun l => l.readRecessive n).startOwn :=
    if_pos (by rw [hs, hcounting, hmay, heligible]; rfl)
  have hstart : (s.mapLine fun l => l.readRecessive n).startOwn
      = { s with line := (s.line.readRecessive n).beginSending (s.assemble x), outbox := s.outbox.launch x } := by
    have hchoice' : (s.mapLine fun l => l.readRecessive n).outbox.choice = some x := hchoice
    rw [State.startOwn, hchoice']
    rfl
  obtain ⟨older, newer, hentries, hlaunch, -⟩ := launchEntry_at (choice_pending hchoice)
  refine ⟨_, s.assemble x, older, newer, hexec.trans (congrArg Host.Outcome.next hstart), rfl, rfl, hentries, ?_, rfl,
    ?_, ?_⟩
  · rw [← hlaunch]
    rfl
  · cases x <;> rfl
  · cases x with
    | presenceRoll =>
      exact ⟨s.listLength, rfl, fun h => min_eq_left h⟩
    | transferRoll k =>
      intro older w newer hwalks htarget holder
      subst htarget
      have hwalk := walkFor_at hwalks holder
      simp only [State.assemble, State.assembleBody, hwalk]
    | _ => rfl

end Starts

/-! Arbitration, collision and the held line (R66 to R68, R71). -/

section Transmission

variable {s : State} {f : Frame}

theorem sentLevel_recessive_iff (c : Fin 8) : sentLevel f (c.val + 1) = .recessive
    ↔ (BitVec.ofNat 8 (f.body.code * 32 + f.sender.val)).getLsbD (7 - c.val) = true := by
  rw [sentLevel_precedence, levelOf_recessive]
  rfl

/-- Outside the cells of the precedence byte that the station sends recessive, another level is a collision (R68). -/
theorem collides_of {cell : Nat} (hlt : cell < 10 * frameLength f.body.code)
    (hbit : 1 ≤ cell → cell ≤ 8 →
      (BitVec.ofNat 8 (f.body.code * 32 + f.sender.val)).getLsbD (8 - cell) = false) : collides f cell = true := by
  rw [collides, decide_eq_true hlt, Bool.true_and, Bool.not_eq_true', Bool.and_eq_false_iff]
  by_cases hcell : 1 ≤ cell ∧ cell ≤ 8
  · refine .inr (decide_eq_false fun hsent => ?_)
    obtain ⟨c, rfl⟩ : ∃ c : Fin 8, cell = c.val + 1 := ⟨⟨cell - 1, by omega⟩, by simp only; omega⟩
    have hset := (sentLevel_recessive_iff c).1 hsent
    rw [show 7 - c.val = 8 - (c.val + 1) by omega, hbit hcell.1 hcell.2] at hset
    cases hset
  · exact .inl (decide_eq_false hcell)

/-- The end of a flight without an owed pulse (R48, R152). -/
theorem land_of_not_owed {o : Outbox} {older newer : List Entry} {x : Subject}
    (h : o.entries = older ++ ⟨x, true⟩ :: newer) (holder : ∀ e ∈ older, e.inFlight = false)
    (howed : ∀ p : LocalPoint, x = .ret p → o.owed[p] = false) :
    o.land = { o with entries := landedEntries x older newer } := by
  rw [Outbox.land, flying_at h holder, h, landEntries_at holder]
  unfold Outbox.settle
  split
  · next p hp =>
    obtain rfl := Option.some.inj hp
    exact if_neg (by simpa using howed p rfl)
  · rfl

theorem land_of_owed {o : Outbox} {older newer : List Entry} {p : LocalPoint}
    (h : o.entries = older ++ ⟨.ret p, true⟩ :: newer) (holder : ∀ e ∈ older, e.inFlight = false)
    (howed : o.owed[p] = true) :
    o.land = Outbox.pulseOffer { entries := older ++ ⟨.ret p, false⟩ :: newer, owed := update o.owed p fun _ => false } p := by
  rw [Outbox.land, flying_at h holder, h, landEntries_at holder]
  exact if_pos howed

theorem landedEntries_of_groupAction {older newer : List Entry} {x : Subject} (h : x.isGroupAction = true) :
    landedEntries x older newer = older ++ ⟨x, false⟩ :: newer.filter fun e => e != ⟨x, false⟩ := by
  have hpending : newer.filter (fun e => !isPending x e) = newer.filter fun e => e != ⟨x, false⟩ := by
    refine List.filter_congr fun e _ => ?_
    rcases e with ⟨y, c⟩
    cases c <;> simp [isPending, bne]
  rw [landedEntries, if_pos h, hpending]

theorem isGroupAction_iff (x : Subject) : x.isGroupAction = true ↔ x = .ack ∨ x = .silence ∨ x = .clear := by
  cases x <;> simp [Subject.isGroupAction]

/-- Settles O46: each end of the transmission, and what landing makes of the entries. -/
theorem arbitrationLossCollisionAndHeldLineEndTheTransmission :
    Obligations.ArbitrationLossCollisionAndHeldLineEndTheTransmission := by
  intro s hs
  refine ⟨fun f at0 heard drive hframe => ⟨fun cell hat hbit => ?_, fun cell hat hlt hbit => ?_⟩, fun hheld => ?_,
    fun o older newer x hentries holder => ⟨fun hx => ?_, fun hack hsilence hclear howed => ?_, fun p hp howed => ?_⟩⟩
  · change execArbitrationLost cell s = _
    rw [execArbitrationLost, hframe]
    refine if_pos ?_
    rw [hs, decide_eq_true hat, decide_eq_true ((sentLevel_recessive_iff cell).2 hbit)]
    rfl
  · change execCollision cell s = _
    rw [execCollision, hframe]
    refine if_pos ?_
    rw [hs, decide_eq_true hat, collides_of hlt hbit]
    rfl
  · have hexec : exec .lineHeld s = .next s.holdLine := if_pos (by rw [hs, Config.heldLimit, decide_eq_true hheld]; rfl)
    rw [hexec, ← countUp_eq_counted]
    rfl
  · rw [land_of_not_owed hentries holder, landedEntries_of_groupAction ((isGroupAction_iff x).2 hx)]
    rintro p rfl
    rcases hx with h | h | h <;> cases h
  · have hnot : x.isGroupAction = false :=
      Bool.eq_false_iff.2 fun h => ((isGroupAction_iff x).1 h).elim hack fun h => h.elim hsilence hclear
    rw [land_of_not_owed hentries holder howed, landedEntries, hnot]
    rfl
  · subst hp
    exact ⟨{ entries := older ++ ⟨.ret p, false⟩ :: newer, owed := update o.owed p fun _ => false }, rfl,
      fun q => update_get _ _ _ _, land_of_owed hentries holder howed⟩

end Transmission

end Sys2Proof.Machine

namespace Sys2Proof.Machine

set_option Elab.async false

/-! Selections and their commands (R178 to R181, Table 12-4). -/

section Selections

variable {s : State}

/-- The bits of whole bytes spell the command of those bytes. -/
theorem selectionOfBits_of_bytes (vpp : Bool) (bytes : List Byte) {unfinished : List Bool} (h : unfinished.length < 8) :
    selectionOfBits vpp ((bytes.flatMap fun x => [7, 6, 5, 4, 3, 2, 1, 0].map x.getLsbD) ++ unfinished)
      = selectionCommand vpp bytes :=
  congrArg (selectionCommand vpp) (bytesOfBits_of_bytes bytes unfinished h)

theorem selectionCommand_unknown (vpp : Bool) {code : Byte} (rest : List Byte)
    (h : code ∉ ([0x01, 0x02, 0x03, 0x04, 0x05, 0x06, 0x07, 0x08, 0x09, 0x10, 0x11, 0x12, 0x13, 0x1F] : List Byte)) :
    selectionCommand vpp (code :: rest) = .unknownRequest code := by
  have hne : ∀ k : Nat, k ∈ [1, 2, 3, 4, 5, 6, 7, 8, 9, 16, 17, 18, 19, 31] → code.toNat ≠ k := by
    revert code
    decide
  have hoperands : requestOperands code = none := by
    unfold requestOperands
    split <;> first | rfl | exact absurd ‹_› (hne _ (by decide))
  unfold selectionCommand
  dsimp only
  split <;> first | exact absurd ‹_› (hne _ (by decide)) | rw [hoperands]

theorem endUnserved_of_not_serves (h : ¬s.serves) : s.notServed = true := by
  rw [← Bool.not_eq_false]
  exact fun hn => h ((notServed_iff s).1 hn)

/-- A weighted flag. -/
theorem bit_mul (b : Bool) (k : Nat) : bit b * k = if b = true then k else 0 := by
  cases b
  · exact Nat.zero_mul k
  · exact Nat.one_mul k

theorem latches_byte (l : Latches) : l.byte = BitVec.ofNat 8
    ((if l.listChanged then 1 else 0) + (if l.presenceChanged then 2 else 0) + (if l.stateChanged then 4 else 0)
      + (if l.fault then 8 else 0)) := by
  simp only [Latches.byte, bit_mul]
  rfl

theorem latch_acknowledged (a b : Bool) : (a && !b) = true ↔ a = true ∧ b = false := by
  rw [Bool.and_eq_true, Bool.not_eq_true']

theorem latches_any_iff (l : Latches) : l.any = true ↔ l ≠ ⟨false, false, false, false⟩ := by
  rcases l with ⟨a, b, c, d⟩
  simp only [Latches.any, Bool.or_eq_true, ne_eq, Latches.mk.injEq, not_and]
  cases a <;> cases b <;> cases c <;> simp

/-- Settles O60: each answer by `request`, the bits of a selection by the bytes they spell. -/
theorem otherSelectionsAcknowledgeClearAndReport : Obligations.OtherSelectionsAcknowledgeClearAndReport := by
  intro s mask code
  refine ⟨fun hserves hburn => ⟨?_, ?_, fun hcode => ?_⟩, fun hserves => ⟨?_, fun n hn hpos => ?_⟩,
    fun hserves hburn => ⟨fun c hc => ?_, fun operand => ?_, fun hcode => ?_⟩,
    fun hselection => ⟨fun hrun => ?_, fun hrun => ?_⟩, fun i => ⟨fun hrun hselection => ?_, fun h => ?_⟩,
    fun vpp a b rest unfinished hlength => ?_, fun hserves c hc => ?_⟩
  · have hexec : exec (.acknowledge mask) s = .next (s.acknowledged mask) :=
      congrArg Host.Outcome.next (request_taken hserves hburn 0x02 _)
    have hnotify : (s.acknowledged mask).notifyLow = (s.acknowledged mask).port.latches.any := by
      have hrun : (s.acknowledged mask).running = true := decide_eq_true hserves.1
      rw [State.notifyLow, hrun, Bool.true_and]
    refine ⟨s.acknowledged mask, hexec, rfl, ?_, rfl, rfl, latch_acknowledged _ _, latch_acknowledged _ _,
      latch_acknowledged _ _, latch_acknowledged _ _, by rw [hnotify, latches_any_iff]⟩
    rw [← latches_byte]
    exact respond_answered s .ok 2 _
  · refine ⟨_, congrArg Host.Outcome.next (request_taken hserves hburn 0x07 _), rfl, respond_answered s .ok 7 [], rfl,
      rfl, fun c hc => ?_⟩
    have hzero : c ∈ Counters.zero.toList := hc
    simpa [Counters.toList, Counters.zero] using hzero
  · have hexec : exec (.unknownRequest code) s = .next (s.request code fun x => x.respond .unknown code []) :=
      if_pos (by rw [Instr.wellFormed, hcode]; rfl)
    rw [hexec, request_taken hserves hburn]
    exact ⟨_, rfl, rfl, respond_answered s .unknown code []⟩
  · have hexec : exec (.truncatedSelection none) s = .next (s.respond .truncated 0 []) :=
      if_neg (by rw [(notServed_iff s).2 hserves]; nofun)
    exact ⟨_, hexec, rfl, respond_answered s .truncated 0 []⟩
  · have hwell : (Instr.truncatedSelection (some code)).wellFormed = true := by
      rw [Instr.wellFormed, hn]
      exact decide_eq_true hpos
    have hexec : exec (.truncatedSelection (some code)) s = .next (s.respond .truncated code []) :=
      (if_neg (by rw [(notServed_iff s).2 hserves]; nofun)).trans (if_pos hwell)
    exact ⟨_, hexec, rfl, respond_answered s .truncated code []⟩
  · simp only [List.mem_cons, List.not_mem_nil, or_false] at hc
    have hbusy (k : Byte) (take : State → State) : ∃ t, Host.Outcome.next (s.request k take)
        = (Host.Outcome.next t : Host.Outcome State Fault Refusal) ∧ s.onlyAnswers t ∧ s.answered t [2, k] := by
      rw [request_busy hserves hburn]
      exact ⟨_, rfl, rfl, respond_answered s .busy k []⟩
    rcases hc with rfl | rfl | rfl | rfl | rfl | rfl | rfl | rfl <;> exact hbusy _ _
  · have hbusy : s.sessionBurning = true := decide_eq_true hburn
    have hexec : exec (.list operand) s = .next (s.respond .busy 0x03 [s.lineCount]) :=
      (if_neg (by rw [(notServed_iff s).2 hserves]; nofun)).trans (if_pos hbusy)
    exact ⟨_, hexec, rfl, respond_answered s .busy 3 [s.lineCount]⟩
  · have hexec : exec (.unknownRequest code) s = .next (s.request code fun x => x.respond .unknown code []) :=
      if_pos (by rw [Instr.wellFormed, hcode]; rfl)
    rw [hexec, request_busy hserves hburn]
    exact ⟨_, rfl, rfl, respond_answered s .busy code []⟩
  · refine (execSelFallingEdge_begins hselection).trans (congrArg Host.Outcome.next ?_)
    have hrunning : s.running = true := decide_eq_true hrun
    simp only [State.beginSelection, hrunning, if_true]
  · refine (execSelFallingEdge_begins hselection).trans (congrArg Host.Outcome.next ?_)
    have hrunning : s.running = false := decide_eq_false hrun
    simp only [State.beginSelection, hrunning, Bool.false_eq_true, if_false]
  · exact if_pos ⟨decide_eq_true hrun, hselection⟩
  · refine if_neg fun hboth => ?_
    exact h.elim (fun hoff => hoff (of_decide_eq_true hboth.1)) fun hoff => hoff hboth.2
  · intro reads
    have hreads (bytes : List Byte) : reads bytes = selectionCommand vpp bytes :=
      selectionOfBits_of_bytes vpp bytes hlength
    refine ⟨hreads _, hreads _, hreads _, hreads _, hreads _, hreads _, hreads _, hreads _, hreads _, hreads _, hreads _,
      hreads _, hreads _, hreads _, fun hcode => ?_, hreads _, fun hcode => ?_, fun hcode => ?_⟩
    · exact (hreads _).trans (selectionCommand_unknown vpp rest hcode)
    · simp only [List.mem_cons, List.not_mem_nil, or_false] at hcode
      rcases hcode with rfl | rfl | rfl | rfl | rfl <;> exact hreads _
    · simp only [List.mem_cons, List.not_mem_nil, or_false] at hcode
      rcases hcode with rfl | rfl <;> exact hreads _
  · have hnot := endUnserved_of_not_serves hserves
    have hunserved (k : Byte) (take : State → State) : Host.Outcome.next (s.request k take)
        = (Host.Outcome.next s.endUnserved : Host.Outcome State Fault Refusal) := by rw [request_notServed hserves]
    simp only [List.mem_cons, List.not_mem_nil, or_false] at hc
    rcases hc with rfl | rfl | rfl | rfl | rfl | rfl | rfl | rfl | rfl | rfl | rfl | rfl | rfl
    exacts [if_pos hnot, hunserved _ _, if_pos hnot, hunserved _ _, hunserved _ _, hunserved _ _, hunserved _ _,
      hunserved _ _, hunserved _ _, hunserved _ _, hunserved _ _, hunserved _ _, if_pos hnot]

end Selections

end Sys2Proof.Machine

namespace Sys2Proof.Machine

set_option Elab.async false

/-! Reading requests (R182, R185 to R187, R189, R191, Table 12-5). -/

section Reading

variable {s : State}

/-- The record word as a number (Table 12-2). -/
theorem recordWord_toNat (r : Record) : (recordWord r).toNat
    = r.id.val * 128 + (match r.state with | .alert => 0 | .held => 1 | .lapsed => 2 | .settled => 3) * 32
      + r.group.val * 4 + (if r.firstOut = true then 2 else 0) + (if r.silenced = true then 1 else 0) := by
  have hid := r.id.isLt
  have hgroup := r.group.isLt
  have hstate : r.state.code = (match r.state with | .alert => 0 | .held => 1 | .lapsed => 2 | .settled => 3) := rfl
  have hcode : r.state.code ≤ 3 := by cases r.state <;> decide
  have hfirst : bit r.firstOut * 2 = if r.firstOut = true then 2 else 0 := bit_mul _ _
  have hsilenced : bit r.silenced = if r.silenced = true then 1 else 0 := rfl
  have hfirst' : bit r.firstOut * 2 ≤ 2 := by rw [hfirst]; split <;> omega
  have hsilenced' : bit r.silenced ≤ 1 := by rw [hsilenced]; split <;> omega
  rw [recordWord, BitVec.toNat_ofNat, Nat.mod_eq_of_lt (by omega), hfirst, hsilenced, hstate]

theorem pageFields_eq (count : Byte) (rs : List Record) : pageFields count rs
    = [count, BitVec.ofNat 8 (min 6 rs.length), if 6 < rs.length then 1 else 0]
      ++ (rs.take 6).flatMap fun r => halfBytes (recordWord r) := by
  have hmore : BitVec.ofNat 8 (bit (decide (6 < rs.length))) = if 6 < rs.length then 1 else 0 := by
    by_cases h : 6 < rs.length
    · rw [if_pos h, decide_eq_true h]
      rfl
    · rw [if_neg h, decide_eq_false h]
      rfl
  simp only [pageFields, Config.pageSize, List.length_take]
  rw [← hmore]
  rfl

/-- The records after a point's are those behind its record. -/
theorem recordsAfter_at {older rest : List Record} {r : Record} (h : ∀ x ∈ older, x.id ≠ r.id) :
    recordsAfter r.id (older ++ r :: rest) = rest := by
  rw [recordsAfter, List.dropWhile_append_of_pos fun x hx => by simpa using h x hx, List.dropWhile_cons_of_neg (by simp)]
  rfl

theorem listJudged_head : s.listJudged 0xFFFF = s.respond .ok 0x03 (pageFields s.lineCount s.annList.records) := rfl

theorem listJudged_after {operand : Half} {older rest : List Record} {r : Record}
    (hrecords : s.annList.records = older ++ r :: rest) (hid : r.id.val = operand.toNat)
    (holder : ∀ x ∈ older, x.id ≠ r.id) : s.listJudged operand = s.respond .ok 0x03 (pageFields s.lineCount rest) := by
  have hlt : operand.toNat < 288 := hid ▸ r.id.isLt
  have hne : operand ≠ 0xFFFF := by
    rintro rfl
    exact absurd hlt (by decide)
  have hpoint : (⟨operand.toNat, hlt⟩ : PointId) = r.id := Fin.ext hid.symm
  have hholds : holds s.annList.records r.id = true := (holds_iff _ _).2 ⟨r, by simp [hrecords], rfl⟩
  rw [State.listJudged, if_neg hne, dif_pos hlt, hpoint, if_pos hholds, hrecords, recordsAfter_at holder]

theorem listJudged_range {operand : Half} (hne : operand ≠ 0xFFFF)
    (hno : ∀ r ∈ s.annList.records, r.id.val ≠ operand.toNat) :
    s.listJudged operand = s.respond .range 0x03 [s.lineCount] := by
  rw [State.listJudged, if_neg hne]
  split
  · next hlt =>
    refine if_neg fun hholds => ?_
    obtain ⟨r, hr, hid⟩ := (holds_iff _ _).1 hholds
    exact hno r hr (congrArg Fin.val hid)
  · rfl

theorem settingsJudged_of_cell {cell : Byte} {c : CellNo} (h : c.val = cell.toNat) :
    s.settingsJudged cell = s.respond .ok 0x09 [s.store[c]] := by
  have hlt : cell.toNat < 26 := h ▸ c.isLt
  obtain rfl : c = ⟨cell.toNat, hlt⟩ := Fin.ext h
  exact dif_pos hlt

theorem settingsJudged_range {cell : Byte} (h : 25 < cell.toNat) : s.settingsJudged cell = s.respond .range 0x09 [] :=
  dif_neg (by omega)

theorem presenceFields_get (n : StationNo) : s.presenceFields[n.val]? = some (s.presenceByte n) := by
  simp [State.presenceFields]

/-- The two bytes of a point stand one after the other (R187). -/
theorem pointFields_get (p : LocalPoint) :
    s.pointFields[2 * p.val]? = some (pointSettingsByte s.inUse.points[p])
    ∧ s.pointFields[2 * p.val + 1]? = some ((s.points[p]).byte) := by
  fin_cases p <;> exact ⟨rfl, rfl⟩

theorem pointSettingsByte_eq (u : PointSettings) : pointSettingsByte u = BitVec.ofNat 8
    (u.debounce.val * 32 + (if u.activeLow = true then 16 else 0) + (match u.mode with | .level => 0 | .pulse => 8)
      + u.group.val) := by
  have hmode : bit (decide (u.mode = .pulse)) * 8 = (match u.mode with | .level => 0 | .pulse => 8) := by
    cases u.mode <;> rfl
  rw [pointSettingsByte, bit_mul, hmode]

theorem pointByte_eq (e : Point) : e.byte = BitVec.ofNat 8
    ((if e.abnormal = true then 1 else 0) + (if e.caught = true then 2 else 0) + (if e.waiting = true then 4 else 0)) := by
  rw [Point.byte, bit_mul, bit_mul]
  rfl

theorem flagsByte_eq : s.flagsByte = BitVec.ofNat 8 ((if s.annList.overflow = true then 1 else 0)
    + (match s.session.phase with | .closed => 0 | .opened => 2 | .burning => 4)
    + (match s.session.lastBurn with | .none => 0 | .done => 8 | .failed => 16)) := by
  have hphase : s.session.phase.code * 2 = (match s.session.phase with | .closed => 0 | .opened => 2 | .burning => 4) := by
    cases s.session.phase <;> rfl
  have hburn : s.session.lastBurn.code * 8 = (match s.session.lastBurn with | .none => 0 | .done => 8 | .failed => 16) := by
    cases s.session.lastBurn <;> rfl
  rw [State.flagsByte, hphase, hburn]
  rfl

/-- Settles O59: the bytes of each response, field by field. -/
theorem readingRequestsReturnTheirFields : Obligations.ReadingRequestsReturnTheirFields := by
  intro s operand cell hserves station phase cause reset flag latches flags twoBytes word
  have hserved : ¬s.notServed = true := by rw [(notServed_iff s).2 hserves]; nofun
  have hword (r : Record) : halfBytes (recordWord r) = twoBytes (word r) := by
    have hnat : (recordWord r).toNat = word r := recordWord_toNat r
    rw [halfBytes, highByte, lowByte, hnat]
  refine ⟨⟨_, if_neg hserved, rfl, ?_⟩, fun hburn => ?_⟩
  · have hfields : s.statusFields = [station, phase, cause, reset, BitVec.ofNat 8 s.line.strikes, s.lineCount,
        BitVec.ofNat 8 s.annList.records.length, latches, flags] := by
      have hlatches : s.port.latches.byte = latches := latches_byte _
      have hflags : s.flagsByte = flags := flagsByte_eq
      rw [State.statusFields, hlatches, hflags]
      rfl
    rw [hfields]
    exact respond_answered s .ok 1 _
  · have hidle : ¬s.sessionBurning = true := fun h => hburn (of_decide_eq_true h)
    have hlist : exec (.list operand) s = .next (s.listJudged operand) := (if_neg hserved).trans (if_neg hidle)
    have htaken (k : Byte) (take : State → State) : Host.Outcome.next (s.request k take)
        = (Host.Outcome.next (take s) : Host.Outcome State Fault Refusal) := by rw [request_taken hserves hburn]
    refine ⟨⟨_, hlist, ?_, fun rest hrest => ?_⟩, fun hne hno => ⟨_, hlist, ?_⟩, ⟨_, s.presenceFields, htaken _ _, rfl,
      respond_answered s .ok 4 _, ?_, fun n => ⟨fun hnone => ?_, fun c hc hn => ?_, fun c hc hn => ?_⟩⟩,
      ⟨_, s.pointFields, htaken _ _, rfl, respond_answered s .ok 5 _, rfl, fun p => ⟨fun hnone => ?_, fun c hc => ?_, ?_⟩⟩,
      ⟨_, htaken _ _, rfl, respond_answered s .ok 6 _⟩, ⟨_, htaken _ _, ?_, fun c hc => ?_, fun hc => ?_⟩⟩
    · unfold State.listJudged
      split
      · rfl
      split
      · split <;> rfl
      · rfl
    · have hpage : s.listJudged operand = s.respond .ok 0x03 (pageFields s.lineCount rest) := by
        rcases hrest with ⟨rfl, rfl⟩ | ⟨older, r, hrecords, hid, holder⟩
        · exact listJudged_head
        · exact listJudged_after hrecords hid holder
      have hbytes : pageFields s.lineCount rest
          = [s.lineCount, BitVec.ofNat 8 (min 6 rest.length), if 6 < rest.length then 1 else 0]
            ++ (rest.take 6).flatMap fun r => twoBytes (word r) := by
        rw [pageFields_eq]
        simp only [hword]
      rw [hpage, hbytes]
      exact respond_answered s .ok 3 _
    · rw [listJudged_range hne hno]
      exact ⟨rfl, respond_answered s .range 3 _⟩
    · rw [State.presenceFields, List.length_map, List.length_finRange]
    · rw [presenceFields_get, State.presenceByte, hnone]
    · rw [presenceFields_get, State.presenceByte, hc]
      exact congrArg some (if_pos hn)
    · rw [presenceFields_get, State.presenceByte, hc]
      exact congrArg some (if_neg hn)
    · have hblank : s.inUse = Settings.blank := by rw [State.inUse, hnone]; rfl
      rw [(pointFields_get p).1, hblank]
      fin_cases p <;> rfl
    · have huse : s.inUse = c := by rw [State.inUse, hc]; rfl
      rw [(pointFields_get p).1, huse]
      exact congrArg some (pointSettingsByte_eq _)
    · rw [(pointFields_get p).2]
      exact congrArg some (pointByte_eq _)
    · unfold State.settingsJudged
      split <;> rfl
    · rw [settingsJudged_of_cell hc]
      exact respond_answered s .ok 9 _
    · rw [settingsJudged_range hc]
      exact respond_answered s .range 9 []

end Reading

end Sys2Proof.Machine

namespace Sys2Proof.Machine

set_option Elab.async false

/-! The programming session (R167 to R172). -/

section Session

variable {s : State}

/-- A programming request, by burn and station state (R167, R181). -/
theorem programming_request (h : s.serves) (code : Byte) (take : State → State) :
    s.request code (fun x => x.programming code take)
      = if s.session.phase = .burning then s.respond .busy code []
        else if s.station.programmable = true then take s else s.respond .refused code [] := by
  by_cases hburn : s.session.phase = .burning
  · rw [request_busy h hburn, if_pos hburn]
  · rw [request_taken h hburn, if_neg hburn]
    rfl

/-- A programming request where none is taken: BUSY while a burn runs, REFUSED otherwise (R167, R181). -/
theorem programming_refused (h : s.serves)
    (hno : (∀ c, s.station ≠ .uncommissioned c) ∨ s.session.phase = .burning) (code : Byte) (take : State → State) :
    ∃ st : Status, st.byte = (if s.session.phase = .burning then 2 else 3)
      ∧ s.request code (fun x => x.programming code take) = s.respond st code [] := by
  rw [programming_request h]
  by_cases hburn : s.session.phase = .burning
  · simp only [if_pos hburn]
    exact ⟨.busy, rfl, rfl⟩
  · have hstation : ¬s.station.programmable = true := fun hp =>
      let ⟨c, hc⟩ := (programmable_iff (st := s.station)).1 hp
      hno.elim (fun hno => hno c hc) hburn
    simp only [if_neg hburn, if_neg hstation]
    exact ⟨.refused, rfl, rfl⟩

theorem programming_taken (h : s.serves) (hstation : ∃ c, s.station = .uncommissioned c)
    (hburn : s.session.phase ≠ .burning) (code : Byte) (take : State → State) :
    s.request code (fun x => x.programming code take) = take s := by
  rw [programming_request h, if_neg hburn, if_pos ((programmable_iff (st := s.station)).2 hstation)]

theorem not_commissioned {cells : Vector Byte 26} (h : cells[25].getLsbD 0 = false) : ¬isCommissioned cells = true := by
  rw [isCommissioned, h]
  nofun

/-! OPEN, STAGE and BURN as judged. -/

theorem openJudged_frozen (h : s.store[25].getLsbD 0 = true) : s.openJudged = s.respond .frozen 0x10 [] := if_pos h

theorem openJudged_refused (h : s.store[25].getLsbD 0 = false) (hvpp : s.pins.vpp = false) :
    s.openJudged = s.respond .refused 0x10 [] :=
  (if_neg (not_commissioned h)).trans (if_pos (by rw [hvpp]; rfl))

/-- The session after an OPEN that is taken (R168). -/
def Session.afterOpen (x : Session) : Session :=
  match x.phase with
  | .closed => { x with phase := .opened, staged := none }
  | _ => x

theorem Session.afterOpen_of_closed {x : Session} (h : x.phase = .closed) :
    x.afterOpen = { x with phase := .opened, staged := none } := by
  rw [Session.afterOpen, h]

theorem Session.afterOpen_of_opened {x : Session} (h : x.phase = .opened) : x.afterOpen = x := by
  rw [Session.afterOpen, h]

theorem openJudged_ok (h : s.store[25].getLsbD 0 = false) (hvpp : s.pins.vpp = true) :
    s.openJudged = ({ s with session := s.session.afterOpen } : State).respond .ok 0x10 [] := by
  have hsession : s.session.afterOpen = match s.session.phase with
      | .closed => { s.session with phase := .opened, staged := none }
      | .opened => s.session
      | .burning => s.session := by
    rw [Session.afterOpen]
    cases s.session.phase <;> rfl
  rw [hsession]
  exact (if_neg (not_commissioned h)).trans (if_neg (by rw [hvpp]; nofun))

theorem stageJudged_notOpen (cell value : Byte) (h : s.session.phase = .closed) :
    s.stageJudged cell value = s.respond .notOpen 0x11 [] := if_pos h

theorem stageJudged_range {cell : Byte} (value : Byte) (h : s.session.phase = .opened) (hcell : 25 < cell.toNat) :
    s.stageJudged cell value = s.respond .range 0x11 [] :=
  (if_neg (by rw [h]; nofun)).trans (dif_neg (by omega))

theorem stageJudged_ok {cell : Byte} (value : Byte) (h : s.session.phase = .opened) {c : CellNo}
    (hcell : c.val = cell.toNat) : s.stageJudged cell value
      = ({ s with session := { s.session with staged := some (c, value) } } : State).respond .ok 0x11 [] := by
  have hlt : cell.toNat < 26 := hcell ▸ c.isLt
  obtain rfl : c = ⟨cell.toNat, hlt⟩ := Fin.ext hcell
  exact (if_neg (by rw [h]; nofun)).trans (dif_pos hlt)

theorem burnJudged_notOpen (h : s.session.phase = .closed) : s.burnJudged = s.respond .notOpen 0x12 [] := if_pos h

theorem burnJudged_refused (h : s.session.phase = .opened) (hstaged : s.session.staged = none) :
    s.burnJudged = s.respond .refused 0x12 [] :=
  (if_neg (by rw [h]; nofun)).trans (if_pos (by rw [hstaged]; rfl))

theorem isNone_of_ne_none {α : Type} {o : Option α} (h : o ≠ none) : ¬o.isNone = true := by
  cases o with
  | none => exact absurd rfl h
  | some x => nofun

theorem burnJudged_failed (h : s.session.phase = .opened) (hstaged : s.session.staged ≠ none)
    (hvpp : s.pins.vpp = false) : s.burnJudged
      = ({ s with session := { phase := .closed, staged := none, lastBurn := .failed } } : State).respond .burnFailed
          0x12 [] :=
  (if_neg (by rw [h]; nofun)).trans ((if_neg (isNone_of_ne_none hstaged)).trans (if_pos (by rw [hvpp]; rfl)))

theorem burnJudged_ok (h : s.session.phase = .opened) (hstaged : s.session.staged ≠ none)
    (hvpp : s.pins.vpp = true) : s.burnJudged
      = ({ s with session := { s.session with phase := .burning }
                  timebase := { s.timebase with burnClocks := 0 } } : State).respond .ok 0x12 [] :=
  (if_neg (by rw [h]; nofun)).trans ((if_neg (isNone_of_ne_none hstaged)).trans (if_neg (by rw [hvpp]; nofun)))

/-! A burn under the idle clock. -/

/-- What the base tick of a station in no service leaves alone. -/
structure SameBurn (s t : State) : Prop where
  power : t.power = s.power
  station : t.station = s.station
  pending : t.pending = s.pending
  session : t.session = s.session
  store : t.store = s.store
  burnClocks : t.timebase.burnClocks = s.timebase.burnClocks

theorem SameBurn.trans {t u : State} (h : SameBurn s t) (h' : SameBurn t u) : SameBurn s u :=
  ⟨h'.power.trans h.power, h'.station.trans h.station, h'.pending.trans h.pending, h'.session.trans h.session,
    h'.store.trans h.store, h'.burnClocks.trans h.burnClocks⟩

theorem tickClock_sameBurn (s : State) : SameBurn s s.tickClock := by
  unfold State.tickClock
  split
  · exact ⟨rfl, rfl, rfl, rfl, rfl, rfl⟩
  · unfold State.baseTick State.sampleDivider
    dsimp only
    split <;> exact ⟨rfl, rfl, rfl, rfl, rfl, rfl⟩

theorem flashDivider_sameBurn (s : State) : SameBurn s s.flashDivider := by
  unfold State.flashDivider
  split
  · refine ⟨rfl, rfl, rfl, rfl, rfl, ?_⟩
    simp only [Timebase.advanceFlash]
  · exact ⟨rfl, rfl, rfl, rfl, rfl, rfl⟩

theorem dueTicks_sameBurn (h : s.inService = false) (hstart : s.station ≠ .start) : SameBurn s s.dueTicks := by
  have hflash := flashDivider_sameBurn s
  have hservice : s.flashDivider.inService = false := by
    rw [State.inService, State.running, hflash.power, hflash.station]
    exact h
  have hroll : s.flashDivider.rollDivider = s.flashDivider := by
    rw [State.rollDivider, hservice]
    rfl
  have hhold : s.flashDivider.holdDivider = s.flashDivider :=
    if_neg fun hover => hstart (hflash.station.symm.trans hover.1)
  rw [State.dueTicks, hroll, hhold]
  exact hflash

/-- A clock period of a station in no service, its hold over, is the burn's and the base tick divider's. -/
theorem step_burning {t : State} (hrun : s.power = .running) (hpending : s.pending = [])
    (hservice : s.station.inService = false) (hstart : s.station ≠ .start) (ht : s.burnClock = t)
    (hstation : t.station = s.station) : ∃ u, step s = .next u ∧ SameBurn t u := by
  have hin : s.inService = false := by rw [State.inService, hservice, Bool.and_false]
  have hrunning : s.running = true := decide_eq_true hrun
  have hfollow : s.followUp = none := by rw [State.followUp, hin]; rfl
  have hline : s.lineClock = s := by rw [State.lineClock, hin]; rfl
  have hclock := tickClock_sameBurn t
  have hin' : t.tickClock.inService = false := by
    rw [State.inService, hclock.station, hstation, hservice, Bool.and_false]
  refine ⟨t.tickClock.dueTicks, ?_, hclock.trans (dueTicks_sameBurn hin' ?_)⟩
  · rw [step, hpending, idle, hrunning, hfollow]
    simp only [if_true, State.clockPeriod, hline, ht]
  · rw [hclock.station, hstation]
    exact hstart

/-- A burn of `s` has run for `k` clock periods. -/
structure BurnsFor (s : State) (k : Nat) (t : State) : Prop where
  power : t.power = .running
  station : t.station = s.station
  pending : t.pending = []
  session : t.session = s.session
  store : t.store = s.store
  burnClocks : t.timebase.burnClocks = k

/-- A burn runs on until its 16,000 clock periods have passed, and then is complete (R170). -/
theorem BurnsFor.step {t : State} {k : Nat} (h : BurnsFor s k t) (hphase : s.session.phase = .burning)
    (hservice : s.station.inService = false) (hstart : s.station ≠ .start) :
    (k + 1 < 16000 → ∃ u, Machine.step t = .next u ∧ BurnsFor s (k + 1) u)
    ∧ (¬k + 1 < 16000 → ∃ u, Machine.step t = .next u ∧ SameBurn t.completeBurn u) := by
  have hburning : t.burning = true := by
    rw [State.burning, State.running, h.power, h.session, hphase]
    rfl
  have hclock (hlt : k + 1 < 16000) : t.burnClock = { t with timebase := { t.timebase with burnClocks := k + 1 } } := by
    rw [State.burnClock, if_pos hburning, h.burnClocks]
    exact if_pos hlt
  have hend (hge : ¬k + 1 < 16000) : t.burnClock = t.completeBurn := by
    rw [State.burnClock, if_pos hburning, h.burnClocks]
    exact if_neg hge
  have hservice' : t.station.inService = false := by rw [h.station, hservice]
  have hstart' : t.station ≠ .start := by rwa [h.station]
  refine ⟨fun hlt => ?_, fun hge => ?_⟩
  · obtain ⟨u, hstep, hsame⟩ := step_burning h.power h.pending hservice' hstart' (hclock hlt) rfl
    exact ⟨u, hstep, hsame.power.trans h.power, hsame.station.trans h.station, hsame.pending.trans h.pending,
      hsame.session.trans h.session, hsame.store.trans h.store, hsame.burnClocks⟩
  · exact step_burning h.power h.pending hservice' hstart' (hend hge) rfl

/-- The cell of a staged pair after its burn (R162, R170). -/
theorem burnIn_get (cells : Vector Byte 26) (c d : CellNo) (v : Byte) :
    (burnIn cells (some (c, v)))[d] = if d = c then cells[c] ||| v else cells[d] := update_get _ _ _ _

theorem steps_burning (hrun : s.power = .running) (hpending : s.pending = []) (hphase : s.session.phase = .burning)
    (hservice : s.station.inService = false) (hstart : s.station ≠ .start) (hclocks : s.timebase.burnClocks = 0) :
    (∀ k, k < 16000 → BurnsFor s k (s.steps k))
    ∧ (s.steps 16000).session = s.completeBurn.session ∧ (s.steps 16000).store = s.completeBurn.store := by
  have hburns : ∀ k, k < 16000 → BurnsFor s k (s.steps k) := by
    intro k
    induction k with
    | zero => exact fun _ => ⟨hrun, rfl, hpending, rfl, rfl, hclocks⟩
    | succ k ih =>
      intro hlt
      obtain ⟨u, hstep, hu⟩ := ((ih (by omega)).step hphase hservice hstart).1 hlt
      rw [steps_succ hstep]
      exact hu
  have hlast := hburns 15999 (by omega)
  obtain ⟨u, hstep, hu⟩ := (hlast.step hphase hservice hstart).2 (by omega)
  rw [show s.steps 16000 = u from steps_succ hstep, hu.session, hu.store]
  simp only [State.completeBurn, hlast.session, hlast.store, and_self]
  exact ⟨hburns, trivial⟩

/-- Settles O58: each request by the session's phase, a burn's end by induction on the idle clock periods. -/
theorem programmingSessionOpensStagesBurnsAndCloses : Obligations.ProgrammingSessionOpensStagesBurnsAndCloses := by
  intro s vpp cell value hserves leaves sensed kept closed failed
  have hserves' : (s.senseVpp vpp).serves := hserves
  have hrunning : s.running = true := decide_eq_true hserves.1
  refine ⟨fun hno => ?_, fun hstation hburn => ⟨?_, ?_, ?_, ?_⟩, fun c v hphase hstaged => ⟨?_, ?_, ?_⟩, fun hburn => ?_⟩
  · have hrefused (code : Byte) (take : State → State) :
        ∃ t, Host.Outcome.next (s.request code fun x => x.programming code take)
            = (Host.Outcome.next t : Host.Outcome State Fault Refusal)
          ∧ kept s.session t ∧ s.answered t [if s.session.phase = .burning then 2 else 3, code] := by
      obtain ⟨st, hst, hrequest⟩ := programming_refused hserves hno code take
      rw [hrequest, ← hst]
      exact ⟨_, rfl, rfl, respond_answered s st code []⟩
    have hrefused' (code : Byte) (take : State → State) :
        ∃ t, Host.Outcome.next ((s.senseVpp vpp).request code fun x => x.programming code take)
            = (Host.Outcome.next t : Host.Outcome State Fault Refusal)
          ∧ sensed s.session t ∧ s.answered t [if s.session.phase = .burning then 2 else 3, code] := by
      obtain ⟨st, hst, hrequest⟩ := programming_refused hserves' hno code take
      have hst' : st.byte = if s.session.phase = .burning then 2 else 3 := hst
      rw [hrequest, ← hst']
      exact ⟨_, rfl, rfl, respond_answered (s.senseVpp vpp) st code []⟩
    exact ⟨hrefused' _ _, hrefused _ _, hrefused' _ _, hrefused _ _⟩
  · refine ⟨_, congrArg Host.Outcome.next (programming_taken hserves' hstation hburn 0x10 _), fun hfrozen => ?_,
      fun hopen hvpp => ?_, fun hopen hvpp => ?_⟩
    · rw [openJudged_frozen (by exact hfrozen)]
      exact ⟨rfl, respond_answered (s.senseVpp vpp) .frozen 0x10 []⟩
    · rw [openJudged_refused (by exact hopen) (by exact hvpp)]
      exact ⟨rfl, respond_answered (s.senseVpp vpp) .refused 0x10 []⟩
    · rw [openJudged_ok (by exact hopen) (by exact hvpp)]
      refine ⟨respond_answered _ .ok 0x10 [], fun hphase => ?_, fun hphase => ?_⟩
      · rw [Session.afterOpen_of_closed (by exact hphase)]
        subst hvpp
        rfl
      · rw [Session.afterOpen_of_opened (by exact hphase)]
        rfl
  · refine ⟨_, congrArg Host.Outcome.next (programming_taken hserves hstation hburn 0x11 _), fun hclosed => ?_,
      fun hopen hcell => ?_, fun hopen c hcell => ?_⟩
    · rw [stageJudged_notOpen cell value hclosed]
      exact ⟨rfl, respond_answered s .notOpen 0x11 []⟩
    · rw [stageJudged_range value hopen hcell]
      exact ⟨rfl, respond_answered s .range 0x11 []⟩
    · rw [stageJudged_ok value hopen hcell]
      exact ⟨rfl, respond_answered _ .ok 0x11 []⟩
  · refine ⟨_, congrArg Host.Outcome.next (programming_taken hserves' hstation hburn 0x12 _), fun hclosed => ?_,
      fun hopen hstaged => ?_, fun hopen hstaged hvpp => ?_, fun hopen hstaged hvpp => ?_⟩
    · rw [burnJudged_notOpen (by exact hclosed)]
      exact ⟨rfl, respond_answered (s.senseVpp vpp) .notOpen 0x12 []⟩
    · rw [burnJudged_refused (by exact hopen) (by exact hstaged)]
      exact ⟨rfl, respond_answered (s.senseVpp vpp) .refused 0x12 []⟩
    · rw [burnJudged_failed (by exact hopen) (by exact hstaged) (by exact hvpp)]
      exact ⟨rfl, respond_answered _ .burnFailed 0x12 []⟩
    · rw [burnJudged_ok (by exact hopen) (by exact hstaged) (by exact hvpp)]
      subst hvpp
      exact ⟨rfl, respond_answered (s.senseVpp true) .ok 0x12 []⟩
  · exact ⟨_, congrArg Host.Outcome.next (programming_taken hserves hstation hburn 0x13 _), rfl,
      respond_answered _ .ok 0x13 []⟩
  · have hburning : s.burning = true := by rw [State.burning, hrunning, hphase]; rfl
    have hstore : s.completeBurn.store = burnIn s.store (some (c, v)) := by rw [← hstaged]; rfl
    refine ⟨s.completeBurn, if_pos hburning, rfl, ?_, fun d hd => ?_, rfl⟩
    · rw [hstore]
      exact (burnIn_get s.store c c v).trans (if_pos rfl)
    · rw [hstore]
      exact (burnIn_get s.store c d v).trans (if_neg hd)
  · have hburning : s.burning = true := by rw [State.burning, hrunning, hphase]; rfl
    exact ⟨_, if_pos hburning, rfl, rfl⟩
  · intro hpending hservice hstart hclocks
    obtain ⟨hburns, hsession, hstore⟩ := steps_burning hserves.1 hpending hphase hservice hstart hclocks
    have hcell : s.completeBurn.store = burnIn s.store (some (c, v)) := by rw [← hstaged]; rfl
    refine ⟨fun k hk => ⟨(hburns k hk).session, (hburns k hk).store⟩, by rw [hsession]; rfl, ?_⟩
    rw [hstore, hcell]
    exact (burnIn_get s.store c c v).trans (if_pos rfl)
  · have hnot : ¬s.burning = true := fun h => by
      rw [State.burning, hrunning, Bool.true_and, decide_eq_true_eq] at h
      exact hburn h
    exact ⟨_, if_neg hnot, rfl, rfl⟩

end Session

end Sys2Proof.Machine

namespace Sys2Proof.Machine

set_option Elab.async false

/-! Words and records (Tables 12-2, 12-5). -/

theorem ofNat_toNat_of_lt {n w : Nat} (h : n < 2 ^ w) : (BitVec.ofNat w n).toNat = n := by
  rw [BitVec.toNat_ofNat, Nat.mod_eq_of_lt h]

theorem halfOf_halfBytes (h : Half) : halfOf (highByte h) (lowByte h) = h := by
  apply BitVec.eq_of_toNat_eq
  have hlt := h.isLt
  simp only [halfOf, highByte, lowByte, BitVec.toNat_ofNat]
  omega

theorem bit_eq_iff (b : Bool) : (bit b == 1) = b := by cases b <;> rfl

theorem bit_le (b : Bool) : bit b ≤ 1 := by cases b <;> decide

theorem recordState_code_lt (x : RecordState) : x.code < 4 := by cases x <;> decide

theorem recordStateOf_code (x : RecordState) : recordStateOf x.code = x := by cases x <;> rfl

/-- A record's word is read back as the record (Table 12-2). -/
theorem recordOf_recordWord (r : Record) : recordOf (recordWord r) = some r := by
  have hid := r.id.isLt
  have hstate := recordState_code_lt r.state
  have hgroup := r.group.isLt
  have hfirst := bit_le r.firstOut
  have hsilenced := bit_le r.silenced
  have hword : (recordWord r).toNat
      = r.id.val * 128 + r.state.code * 32 + r.group.val * 4 + bit r.firstOut * 2 + bit r.silenced :=
    ofNat_toNat_of_lt (by omega)
  unfold recordOf
  rw [dif_pos (by omega)]
  have hid' : (recordWord r).toNat / 128 = r.id.val := by omega
  have hstate' : (recordWord r).toNat / 32 % 4 = r.state.code := by omega
  have hgroup' : (recordWord r).toNat / 4 % 8 = r.group.val := by omega
  have hfirst' : (recordWord r).toNat / 2 % 2 = bit r.firstOut := by omega
  have hsilenced' : (recordWord r).toNat % 2 = bit r.silenced := by omega
  congr 1
  rcases r with ⟨id, state, group, firstOut, silenced⟩
  rw [Record.mk.injEq]
  refine ⟨Fin.ext hid', ?_, Fin.ext hgroup', ?_, ?_⟩
  · rw [hstate', recordStateOf_code]
  · rw [hfirst', bit_eq_iff]
  · rw [hsilenced', bit_eq_iff]

/-! Bodies (Table 12-1). -/

theorem pointBody_of (p : LocalPoint) (g : Group) : pointBody (BitVec.ofNat 8 (g.val * 8 + p.val)) = some (p, g) := by
  have hp := p.isLt
  have hg := g.isLt
  have hnat : (BitVec.ofNat 8 (g.val * 8 + p.val)).toNat = g.val * 8 + p.val := ofNat_toNat_of_lt (by omega)
  unfold pointBody
  rw [if_pos (by omega), Option.some.injEq, Prod.mk.injEq]
  refine ⟨Fin.ext ?_, Fin.ext ?_⟩ <;> simp only [hnat] <;> omega

theorem stationBody_of (n : StationNo) : stationBody (BitVec.ofNat 8 n.val) = some n := by
  have hn := n.isLt
  have hnat : (BitVec.ofNat 8 n.val).toNat = n.val := ofNat_toNat_of_lt (by omega)
  unfold stationBody
  rw [dif_pos (by omega), Option.some.injEq]
  exact Fin.ext hnat

section RollBody

variable (r : Roll)

/-- The high bit of the predecessor's point id in a roll's flags byte. -/
def Roll.highBit : Nat :=
  match r.predecessor with
  | some p => p.val / 256
  | none => 0

theorem Roll.highBit_le : r.highBit ≤ 1 := by
  unfold Roll.highBit
  split
  · next p _ =>
    have := p.isLt
    omega
  · omega

theorem rollFlags_toNat : (rollFlags r).toNat
    = bit r.last * 128 + bit r.overflow * 64 + bit r.predecessor.isSome * 32 + bit r.record.isSome * 16 + r.highBit := by
  have h1 := bit_le r.last
  have h2 := bit_le r.overflow
  have h3 := bit_le r.predecessor.isSome
  have h4 := bit_le r.record.isSome
  have h5 := r.highBit_le
  have hflags : rollFlags r = BitVec.ofNat 8 (bit r.last * 128 + bit r.overflow * 64 + bit r.predecessor.isSome * 32
      + bit r.record.isSome * 16 + r.highBit) := rfl
  rw [hflags]
  exact ofNat_toNat_of_lt (by omega)

theorem getLsbD_of_bit {x : Byte} {i : Nat} {b : Bool} (h : x.toNat / 2 ^ i % 2 = bit b) : x.getLsbD i = b := by
  rw [getLsbD_eq_testBit, Nat.testBit_eq_decide_div_mod_eq, h]
  cases b <;> rfl

/-- The flags byte of a transfer roll, bit by bit (Table 12-1). -/
theorem rollFlags_bits : (rollFlags r).getLsbD 7 = r.last ∧ (rollFlags r).getLsbD 6 = r.overflow
    ∧ (rollFlags r).getLsbD 5 = r.predecessor.isSome ∧ (rollFlags r).getLsbD 4 = r.record.isSome
    ∧ (rollFlags r).toNat / 2 % 8 = 0 ∧ (rollFlags r).toNat % 2 = r.highBit := by
  have hnat := rollFlags_toNat r
  have h1 := bit_le r.last
  have h2 := bit_le r.overflow
  have h3 := bit_le r.predecessor.isSome
  have h4 := bit_le r.record.isSome
  have h5 := r.highBit_le
  refine ⟨getLsbD_of_bit ?_, getLsbD_of_bit ?_, getLsbD_of_bit ?_, getLsbD_of_bit ?_, ?_, ?_⟩ <;> omega

theorem predecessorOf_rollFlags :
    predecessorOf (rollFlags r) (BitVec.ofNat 8 (match r.predecessor with | some p => p.val | none => 0))
      = some r.predecessor := by
  obtain ⟨-, -, hflag, -, -, hhigh⟩ := rollFlags_bits r
  unfold predecessorOf
  rw [hflag, hhigh]
  unfold Roll.highBit
  cases r.predecessor with
  | none => rfl
  | some p =>
    have hp := p.isLt
    have hid : p.val / 256 * 256 + (BitVec.ofNat 8 p.val).toNat = p.val := by
      rw [BitVec.toNat_ofNat]
      omega
    simp only [Option.isSome_some, if_true, hid]
    exact dif_pos hp

theorem rollRecordOf_rollFlags :
    rollRecordOf (rollFlags r) (match r.record with | some x => recordWord x | none => 0) = some r.record := by
  obtain ⟨-, -, -, hflag, -⟩ := rollFlags_bits r
  unfold rollRecordOf
  rw [hflag]
  cases r.record with
  | none => rfl
  | some x =>
    simp only [Option.isSome_some, if_true, recordOf_recordWord]
    rfl

theorem rollBody_of (h : r.record.isSome ∨ r.last = true) :
    rollBody (BitVec.ofNat 8 r.target.val) (rollFlags r)
        (BitVec.ofNat 8 (match r.predecessor with | some p => p.val | none => 0))
        (highByte (match r.record with | some x => recordWord x | none => 0))
        (lowByte (match r.record with | some x => recordWord x | none => 0)) = some r := by
  obtain ⟨hlast, hoverflow, -, -, hzero, -⟩ := rollFlags_bits r
  unfold rollBody
  rw [stationBody_of, predecessorOf_rollFlags, halfOf_halfBytes, rollRecordOf_rollFlags]
  dsimp only
  rw [hlast, hoverflow]
  exact if_pos ⟨hzero, h⟩

end RollBody

theorem reasonOf_code (r : Reason) : reasonOf (BitVec.ofNat 8 r.code).toNat = some r := by cases r <;> rfl

/-- A bulletin's body bytes are read back as the bulletin (Table 12-1, R43). -/
theorem bodyOf_bodyBytes (b : Bulletin) (h : ∀ r, b = .transferRoll r → r.record.isSome ∨ r.last = true) :
    bodyOf b.code (bodyBytes b) = some b := by
  cases b with
  | raise p g =>
    change (pointBody _).map _ = _
    rw [pointBody_of]
    rfl
  | loss n =>
    change (stationBody _).map _ = _
    rw [stationBody_of]
    rfl
  | ret p g =>
    change (pointBody _).map _ = _
    rw [pointBody_of]
    rfl
  | ack m => rfl
  | silence m => rfl
  | clear m => rfl
  | presenceRoll sd ld n =>
    have hn := n.isLt
    have hnat : (BitVec.ofNat 8 n.val).toNat = n.val := ofNat_toNat_of_lt (by omega)
    have hlt : (BitVec.ofNat 8 n.val).toNat < 65 := by omega
    change (if _ : (BitVec.ofNat 8 n.val).toNat < 65 then some (Bulletin.presenceRoll (halfOf (highByte sd) (lowByte sd))
      (halfOf (highByte ld) (lowByte ld)) ⟨(BitVec.ofNat 8 n.val).toNat, _⟩) else none) = _
    rw [dif_pos hlt, halfOf_halfBytes, halfOf_halfBytes, Option.some.injEq, Bulletin.presenceRoll.injEq]
    exact ⟨rfl, rfl, Fin.ext hnat⟩
  | transferRoll r =>
    exact congrArg (Option.map Bulletin.transferRoll) (rollBody_of r (h r rfl))
  | join r d =>
    change (reasonOf _).map (fun x => Bulletin.join x (halfOf (highByte d) (lowByte d))) = _
    rw [reasonOf_code, halfOf_halfBytes]
    rfl

/-! Frames (R41, R62, R193). -/

section Frame

variable (f : Frame)

theorem code_lt (b : Bulletin) : b.code < 8 := by cases b <;> simp [Bulletin.code]

theorem bodyBytes_length (b : Bulletin) : (bodyBytes b).length = bodyLength b.code := by cases b <;> rfl

theorem frameBytes_length : (frameBytes f).length = frameLength f.body.code := by
  simp [frameBytes, coveredBytes, halfBytes, bodyBytes_length, frameLength]

theorem precedenceByte_parts : kindCodeOf (precedenceByte f.body.code f.sender) = f.body.code
    ∧ senderOf (precedenceByte f.body.code f.sender) = f.sender := by
  have hcode := code_lt f.body
  have hsender := f.sender.isLt
  have hnat : (precedenceByte f.body.code f.sender).toNat = f.body.code * 32 + f.sender.val :=
    ofNat_toNat_of_lt (by omega)
  refine ⟨?_, Fin.ext ?_⟩
  · rw [kindCodeOf, hnat]
    omega
  · simp only [senderOf, hnat]
    omega

/-- A frame's bytes are read back as the frame (R41, R69). -/
theorem frameOf_frameBytes (h : f.wellFormed) : frameOf (frameBytes f) = some f := by
  obtain ⟨hkind, hsender⟩ := precedenceByte_parts f
  have hlength := bodyBytes_length f.body
  have hbody : bodyOf f.body.code (bodyBytes f.body) = some f.body := bodyOf_bodyBytes _ fun r hr => by
    unfold Frame.wellFormed at h
    rw [hr] at h
    exact h
  have hbytes : frameBytes f = precedenceByte f.body.code f.sender :: f.count
      :: (bodyBytes f.body ++ halfBytes (checkOf (coveredBytes f))) := rfl
  rw [hbytes]
  unfold frameOf
  dsimp only
  rw [hkind, ← hlength, List.take_left, List.drop_left, hbody, hsender]
  refine if_pos ⟨?_, rfl⟩
  simp [halfBytes]

end Frame

/-! Cells (R61, R62). -/

theorem byteCells_length (b : Byte) : (byteCells b).length = 10 := rfl

theorem flatMap_byteCells_length (bytes : List Byte) : (bytes.flatMap byteCells).length = 10 * bytes.length := by
  induction bytes with
  | nil => rfl
  | cons b bytes ih =>
    rw [List.flatMap_cons, List.length_append, byteCells_length, ih, List.length_cons]
    omega

/-- A cell of a byte's stretch of the line is a cell of that byte. -/
theorem cellAt_bytes (bytes : List Byte) {k i : Nat} (hk : k < bytes.length) (hi : i < 10) :
    cellAt (bytes.flatMap byteCells) (10 * k + i) = cellAt (byteCells bytes[k]) i := by
  induction bytes generalizing k with
  | nil => exact absurd hk (Nat.not_lt_zero k)
  | cons b bytes ih =>
    unfold cellAt
    rw [List.flatMap_cons]
    cases k with
    | zero =>
      rw [Nat.mul_zero, Nat.zero_add]
      exact List.getD_append _ _ _ _ (by rw [byteCells_length b]; omega)
    | succ k =>
      rw [List.getD_append_right _ _ _ _ (by rw [byteCells_length]; omega), byteCells_length,
        show 10 * (k + 1) + i - 10 = 10 * k + i by omega]
      exact ih (by simpa using hk)

theorem ofNat_bitsValue_byteBits (b : Byte) : BitVec.ofNat 8 (bitsValue (byteBits b)) = b :=
  List.head_eq_of_cons_eq (bytesOfBits_of_bytes [b] [] (by decide))

theorem levelBit_levelOf (b : Bool) : levelBit (levelOf b) = b := by cases b <;> rfl

/-- The bytes on the line are read as they were sent (R61). -/
theorem byteAt_bytes (bytes : List Byte) {k : Nat} (hk : k < bytes.length) :
    byteAt (bytes.flatMap byteCells) k = bytes[k] := by
  have hbits : ([1, 2, 3, 4, 5, 6, 7, 8].map fun i => levelBit (cellAt (bytes.flatMap byteCells) (10 * k + i)))
      = byteBits bytes[k] := by
    have hcell (i : Nat) (hi : i < 10) := cellAt_bytes bytes hk hi
    simp only [List.map_cons, List.map_nil]
    rw [hcell 1 (by decide), hcell 2 (by decide), hcell 3 (by decide), hcell 4 (by decide), hcell 5 (by decide),
      hcell 6 (by decide), hcell 7 (by decide), hcell 8 (by decide)]
    simp [cellAt, byteCells, byteBits, levelBit_levelOf]
  rw [byteAt, hbits, ofNat_bitsValue_byteBits]

theorem byteFramed_bytes (bytes : List Byte) {k : Nat} (hk : k < bytes.length) :
    byteFramed (bytes.flatMap byteCells) k = true := by
  have hlead := cellAt_bytes bytes hk (i := 0) (by decide)
  have htail := cellAt_bytes bytes hk (i := 9) (by decide)
  rw [byteFramed, ← Nat.add_zero (10 * k), hlead, Nat.add_zero, htail]
  rfl

section Cells

variable (f : Frame)

theorem bytesRead_frameCells : bytesRead (frameCells f) = frameLength f.body.code := by
  have hfirst : byteAt (frameCells f) 0 = precedenceByte f.body.code f.sender :=
    byteAt_bytes (frameBytes f) (k := 0) (by simp [frameBytes, coveredBytes])
  rw [bytesRead, hfirst, (precedenceByte_parts f).1]

theorem frameCells_length : (frameCells f).length = 10 * bytesRead (frameCells f) := by
  rw [bytesRead_frameCells, frameCells, flatMap_byteCells_length, frameBytes_length]

/-- Settles O18: cells give back the bytes, bytes the body, and both the frame. -/
theorem sentCellsReadBackAsTheSameFrame : Obligations.SentCellsReadBackAsTheSameFrame := by
  intro f h
  have hframed : (List.range (bytesRead (frameCells f))).all (byteFramed (frameCells f)) = true := by
    rw [List.all_eq_true]
    intro k hk
    rw [bytesRead_frameCells, ← frameBytes_length, List.mem_range] at hk
    exact byteFramed_bytes _ hk
  have hbytes : (List.range (bytesRead (frameCells f))).map (byteAt (frameCells f)) = frameBytes f := by
    rw [bytesRead_frameCells, ← frameBytes_length]
    apply List.ext_getElem (by simp)
    intro k hk hk'
    rw [List.getElem_map, List.getElem_range]
    exact byteAt_bytes _ hk'
  rw [readFrame, if_pos hframed, hbytes, frameOf_frameBytes f h]

/-! The held run within a frame's own cells (R71). -/

theorem runAfter_append (n : Nat) (a b : List Level) : runAfter n (a ++ b) = runAfter (runAfter n a) b :=
  List.foldl_append

theorem runReaches_append (n : Nat) (a b : List Level) :
    runReaches n (a ++ b) = (runReaches n a || runReaches (runAfter n a) b) := by
  induction a generalizing n with
  | nil => rfl
  | cons c a ih =>
    rw [List.cons_append, runReaches, ih, runReaches, Bool.or_assoc]
    rfl

theorem runCell_le_succ (n : Nat) (c : Level) : runCell n c ≤ n + 1 := by
  cases c
  · exact min_le_right _ _
  · exact Nat.zero_le _

theorem not_runReaches_of_short {n : Nat} {cells : List Level} (h : n + cells.length < 12) : runReaches n cells = false := by
  induction cells generalizing n with
  | nil => rfl
  | cons c cells ih =>
    have hcell := runCell_le_succ n c
    rw [List.length_cons] at h
    rw [runReaches, ih (by omega), Bool.or_false, decide_eq_false_iff_not, Config.heldLimit]
    omega

/-- A byte's recessive tail cell ends the held run, which its ten cells cannot bring to 12. -/
theorem byteCells_run (b : Byte) : runAfter 0 (byteCells b) = 0 ∧ runReaches 0 (byteCells b) = false := by
  refine ⟨?_, not_runReaches_of_short (by rw [byteCells_length]; omega)⟩
  rw [byteCells, ← List.cons_append, runAfter_append]
  rfl

theorem flatMap_byteCells_run (bytes : List Byte) :
    runAfter 0 (bytes.flatMap byteCells) = 0 ∧ runReaches 0 (bytes.flatMap byteCells) = false := by
  induction bytes with
  | nil => exact ⟨rfl, rfl⟩
  | cons b bytes ih =>
    obtain ⟨hafter, hreaches⟩ := byteCells_run b
    rw [List.flatMap_cons, runAfter_append, runReaches_append, hafter, hreaches]
    exact ⟨ih.1, ih.2⟩

theorem frameCells_run : runAfter 0 (frameCells f) = 0 ∧ runReaches 0 (frameCells f) = false :=
  flatMap_byteCells_run _

end Cells

end Sys2Proof.Machine

namespace Sys2Proof.Machine

set_option Elab.async false

/-! Hearing a frame (R125). -/

section Hearing

variable {s : State} {f : Frame}

/-- Writing the state that an entry has changes nothing. -/
theorem setPeer_same (s : State) (n : StationNo) : s.setPeer n (s.peerState n) = s := by
  have hsame : decide (n ≠ s.own ∧ s.peerState n ≠ s.peerState n) = false := decide_eq_false fun h => h.2 rfl
  unfold State.setPeer
  simp [Port.notePresence]

/-- The entry of a sender that is noted while listening or asking (R125). -/
def Frame.heardState (f : Frame) : PeerState → PeerState
  | .absent => if f.isJoin then .joining else .active
  | .joining => if f.isJoin then .joining else .active
  | other => other

theorem notesSenders_iff {st : Station} :
    st.notesSenders = true ↔ (∃ n, st = .listen n) ∨ st = .joining .asking := by
  cases st with
  | joining phase => cases phase <;> simp [Station.notesSenders]
  | _ => simp [Station.notesSenders]

theorem noteHeard_eq (s : State) (f : Frame) : s.noteHeard f
    = if s.station.notesSenders = true then s.setPeer f.sender (f.heardState (s.peerState f.sender)) else s := by
  unfold State.noteHeard
  cases s.station.notesSenders with
  | false => rfl
  | true =>
    simp only [if_true]
    have hsame := setPeer_same s f.sender
    cases hst : s.peerState f.sender <;> rw [hst] at hsame
    · rfl
    · simp only [Frame.heardState]
      split
      · exact hsame.symm
      · rfl
    · exact hsame.symm
    · exact hsame.symm
    · exact hsame.symm

theorem hear_of_own (h : f.sender = s.own) : s.hear f = s := if_pos h

theorem hear_of_peer (h : f.sender ≠ s.own) :
    s.hear f = ((s.clearSilence f.sender).mapOutbox fun o => o.withdraw (.loss f.sender)).noteHeard f := if_neg h

/-- Hearing touches the presence table and the outbox alone. -/
theorem hear_frame (s : State) (f : Frame) :
    (s.hear f).annList = s.annList ∧ (s.hear f).lineCount = s.lineCount ∧ (s.hear f).points = s.points
    ∧ (s.hear f).presence.quiet = s.presence.quiet ∧ (s.hear f).port.counters = s.port.counters := by
  by_cases h : f.sender = s.own
  · rw [hear_of_own h]
    exact ⟨rfl, rfl, rfl, rfl, rfl⟩
  · rw [hear_of_peer h]
    have hnote := State.noteHeard_presenceOnly ((s.clearSilence f.sender).mapOutbox fun o => o.withdraw (.loss f.sender)) f
    exact ⟨(State.presenceOnly_annList hnote :), (State.presenceOnly_lineCount hnote :),
      (State.presenceOnly_points hnote :), (State.presenceOnly_quiet hnote :), (State.presenceOnly_port_counters hnote :)⟩

theorem hear_outbox (s : State) (f : Frame) : (s.hear f).outbox
    = { s.outbox with
        entries := s.outbox.entries.filter fun e => decide (f.sender = s.own) || e != ⟨.loss f.sender, false⟩ } := by
  by_cases h : f.sender = s.own
  · simp [hear_of_own h, h]
  · rw [hear_of_peer h, State.presenceOnly_outbox (State.noteHeard_presenceOnly _ f)]
    have hentries := withdraw_entries s.outbox (.loss f.sender)
    simp only [decide_eq_false h, Bool.false_or, ← hentries]
    rfl

theorem hear_peers_of_ne {n : StationNo} (h : n ≠ f.sender ∨ n = s.own) :
    (s.hear f).presence.peers[n] = s.presence.peers[n] := by
  by_cases hown : f.sender = s.own
  · rw [hear_of_own hown]
  · have hn : n ≠ f.sender := h.elim id fun h => by rw [h]; exact Ne.symm hown
    have hclear := s.clearSilence_get f.sender n
    rw [if_neg hn] at hclear
    rw [hear_of_peer hown, noteHeard_eq]
    split
    · rw [State.setPeer_get, if_neg fun h => hn h.1]
      exact hclear
    · exact hclear

theorem hear_sender (h : f.sender ≠ s.own) : ((s.hear f).presence.peers[f.sender]).silence = 0
    ∧ (s.hear f).peerState f.sender
      = if s.station.notesSenders = true then f.heardState (s.peerState f.sender) else s.peerState f.sender := by
  have hclear := s.clearSilence_get f.sender f.sender
  rw [if_pos rfl] at hclear
  have hstate := s.clearSilence_peerState f.sender f.sender
  rw [hear_of_peer h, noteHeard_eq]
  set u := (s.clearSilence f.sender).mapOutbox fun o => o.withdraw (.loss f.sender)
  have hu : u.presence.peers[f.sender] = { s.presence.peers[f.sender] with silence := 0 } := hclear
  have hu' : u.peerState f.sender = s.peerState f.sender := hstate
  have hown : f.sender ≠ u.own := h
  have hstation : u.station = s.station := rfl
  rw [hstation]
  cases s.station.notesSenders with
  | false =>
    simp only [Bool.false_eq_true, if_false]
    exact ⟨by rw [hu], hu'⟩
  | true =>
    simp only [if_true]
    refine ⟨?_, ?_⟩
    · rw [State.setPeer_get]
      split
      · rfl
      · rw [hu]
    · rw [State.setPeer_peerState, if_pos ⟨rfl, hown⟩, hu']

end Hearing

/-- What an entry to DISCORD leaves, after its FAULT is judged (R96). -/
theorem judged_enterDiscord (s v : State) :
    (judgeFault s v.enterDiscord).station = .discord
    ∧ (judgeFault s v.enterDiscord).annList = { v.annList with walks := [] }
    ∧ (judgeFault s v.enterDiscord).lineCount = v.lineCount
    ∧ (judgeFault s v.enterDiscord).outbox = Outbox.reset
    ∧ (judgeFault s v.enterDiscord).presence = v.presence
    ∧ (judgeFault s v.enterDiscord).points = v.points
    ∧ (judgeFault s v.enterDiscord).port.counters = v.port.counters
    ∧ (judgeFault s v.enterDiscord).port.latches.stateChanged = true
    ∧ (judgeFault s v.enterDiscord).line = { v.line with strikes := strikesOnLeaving v.station v.line.strikes } :=
  ⟨rfl, rfl, rfl, rfl, rfl, rfl, rfl, rfl, rfl⟩

/-! The check (R69, R70). -/

section Check

variable {s : State}

/-- A format error is recorded, and nothing is handed on. -/
theorem exec_frameChecked_formatError {x : InFrame} (hs : s.inService = true) (hover : s.station.timerOver = false)
    (hframe : s.line.frame = some x) (hrole : x.role = .receiver ∨ ∃ f, x.role = .collided f)
    (hheard : x.heard = .unchecked) {cells : List Level} (hlength : cells.length = 10 * bytesRead cells)
    (hread : readFrame cells = none) (hrun : runReaches 0 cells = false) :
    exec (.frameChecked cells) s = .next (s.recordCheck x cells) := by
  have hcheck : s.checkFrame x cells = s.recordCheck x cells := by rw [State.checkFrame, hread]
  have hjudge : judgeFault s (s.recordCheck x cells) = s.recordCheck x cells :=
    judgeFault_id (faultOn_congr rfl rfl rfl rfl)
  rw [exec_frameChecked_of_cells hs hframe hrole hheard hlength hrun, takeTimerEnd_of_not_over hover, hcheck, hjudge]

/-- What the record of a check leaves: the line with the slot to drive, and a VETO that has come counted. -/
theorem recordCheck_eq (x : InFrame) (cells : List Level) {heard : Heard} (hheard : heardOf (readFrame cells) = heard)
    {drive : Option Slot} (hdrive : s.slotDriven x.role heard = drive) {cell : Nat}
    (hcell : cellAfterCheck x cells = cell) {veto : Bool} (hveto : vetoAtCheck x cells drive = veto) :
    s.recordCheck x cells
      = { s with
          line := { s.line with
            held := runAfter 0 cells
            frame := some { x with cell := cell, heard := heard, drive := drive } }
          port := { s.port with
            counters := { s.port.counters with
              vetosDriven := if veto = true then counted s.port.counters.vetosDriven else s.port.counters.vetosDriven } } } := by
  subst hheard hdrive hcell hveto
  rw [← countIf_eq_counted]
  rfl

/-- Settles O48: the check is recorded and nothing else follows. -/
theorem formatErrorDrawsVetoAndIsHeardFromNoOne : Obligations.FormatErrorDrawsVetoAndIsHeardFromNoOne := by
  intro s cells cell role drive hs hover hframe hlength hread hrun seen
  have hheard : heardOf (readFrame cells) = .formatError := by rw [hread]; rfl
  have hexec (hrole : role = .receiver ∨ ∃ f, role = .collided f) := exec_frameChecked_formatError hs hover hframe hrole
    rfl hlength hread hrun
  have hcell : cellAfterCheck { cell := cell, role := .receiver, heard := .unchecked, drive := drive } cells
      = cells.length := hlength.symm
  refine ⟨fun hrole hstation => ?_, fun hrole hstation => ?_, fun g hrole => ?_⟩
  · have hdrives : s.station.drivesVeto = true := by
      rcases hstation with ⟨n, h⟩ | ⟨phase, h⟩ | h <;> rw [h] <;> rfl
    have hdrive : s.slotDriven .receiver .formatError = some .veto := if_pos hdrives
    rw [hexec (.inl hrole)]
    subst hrole
    exact congrArg Host.Outcome.next (recordCheck_eq _ _ hheard hdrive hcell (veto := true) rfl)
  · have hdrives : ¬s.station.drivesVeto = true := by
      rcases hstation with ⟨k, lost, h⟩ | h <;> rw [h] <;> nofun
    have hdrive : s.slotDriven .receiver .formatError = none := if_neg hdrives
    rw [hexec (.inl hrole)]
    subst hrole
    exact congrArg Host.Outcome.next (recordCheck_eq _ _ hheard hdrive hcell (veto := false) rfl)
  · rw [hexec (.inr ⟨g, hrole⟩)]
    subst hrole
    have hafter : cellAfterCheck { cell := cell, role := .collided g, heard := .unchecked, drive := drive } cells
        = max cell cells.length := by rw [cellAfterCheck, ← hlength]
    have hveto : vetoAtCheck { cell := cell, role := .collided g, heard := .unchecked, drive := drive } cells (some .veto)
        = decide (cell < 10 * frameLength g.body.code ∧ 10 * frameLength g.body.code ≤ max cell cells.length) := by
      rw [← hafter]
      rfl
    rw [recordCheck_eq _ _ hheard (drive := some .veto) rfl hafter hveto]
    simp only [decide_eq_true_eq]

/-- The check of a well-formed frame's own cells hands the frame on. -/
theorem exec_frameChecked_wellFormed {x : InFrame} {f : Frame} (hs : s.inService = true)
    (hover : s.station.timerOver = false) (hframe : s.line.frame = some x)
    (hrole : x.role = .receiver ∨ ∃ g, x.role = .collided g) (hheard : x.heard = .unchecked) (hf : f.wellFormed) :
    exec (.frameChecked (frameCells f)) s
      = .next (judgeFault s ((s.recordCheck x (frameCells f)).handOn f)) := by
  have hcheck : s.checkFrame x (frameCells f) = (s.recordCheck x (frameCells f)).handOn f := by
    rw [State.checkFrame, sentCellsReadBackAsTheSameFrame f hf]
  rw [exec_frameChecked_of_cells hs hframe hrole hheard (frameCells_length f) (frameCells_run f).2,
    takeTimerEnd_of_not_over hover, hcheck]

/-- A frame that is handed on, but that a LISTEN station finds to carry its own number, is heard (R70, R97). -/
theorem handOn_of_peer {f : Frame} (h : (∀ n, s.station ≠ .listen n) ∨ f.sender ≠ s.own) : s.handOn f
    = (s.mapCounters fun c => { c with goodFrames := countUp c.goodFrames }).hear f := by
  unfold State.handOn
  dsimp only
  split
  · next n hst =>
    exact if_neg (h.elim (fun h => absurd hst (h n)) id)
  · rfl

/-- In LISTEN the own number takes the station to DISCORD, whatever was heard before (R97). -/
theorem handOn_of_own {f : Frame} {n : Nat} (hst : s.station = .listen n) (h : f.sender = s.own) : s.handOn f
    = (s.mapCounters fun c => { c with goodFrames := countUp c.goodFrames }).enterDiscord := by
  have hear : (s.mapCounters fun c => { c with goodFrames := countUp c.goodFrames }).hear f = _ := hear_of_own h
  simp only [State.handOn, hst, if_pos h, hear]

theorem verdict_ne_veto (s : State) (f : Frame) : s.verdict f ≠ .veto := by
  unfold State.verdict
  split <;> nofun

/-- The count of driven VETOs after the check of a well-formed frame (R68, R70). -/
def vetosAfterCheck (f : Frame) (cell : Nat) (role : Role) (c : Half) : Half :=
  match role with
  | .collided g =>
    if cell < 10 * frameLength g.body.code ∧ frameLength g.body.code ≤ frameLength f.body.code then counted c else c
  | _ => c

theorem vetoAtCheck_wellFormed (f : Frame) (cell : Nat) (role : Role) (drive : Option Slot)
    (hrole : role = .receiver ∨ ∃ g, role = .collided g) (c : Half) :
    (if vetoAtCheck { cell := cell, role := role, heard := .unchecked, drive := drive } (frameCells f)
          (s.slotDriven role (.wellFormed f)) = true then counted c else c) = vetosAfterCheck f cell role c := by
  rcases hrole with rfl | ⟨g, rfl⟩
  · have hdrive : ¬s.slotDriven .receiver (.wellFormed f) = some .veto := by
      simp only [State.slotDriven]
      split
      · exact fun h => verdict_ne_veto s f (Option.some.inj h)
      · nofun
    exact if_neg fun h => hdrive (of_decide_eq_true h)
  · have hcell : cellAfterCheck { cell := cell, role := .collided g, heard := .unchecked, drive := drive } (frameCells f)
        = max cell (10 * frameLength f.body.code) := by
      rw [← bytesRead_frameCells]
      rfl
    have hveto : vetoAtCheck { cell := cell, role := .collided g, heard := .unchecked, drive := drive } (frameCells f)
          (s.slotDriven (.collided g) (.wellFormed f)) = true
        ↔ cell < 10 * frameLength g.body.code ∧ frameLength g.body.code ≤ frameLength f.body.code := by
      simp only [vetoAtCheck, Role.entersVeto, hcell, Frame.vetoCell, decide_eq_true_eq]
      omega
    simp only [hveto, vetosAfterCheck]

/-- `u` is `s` but for line and service port. -/
structure SameBehindLine (s u : State) : Prop where
  station : u.station = s.station
  annList : u.annList = s.annList
  lineCount : u.lineCount = s.lineCount
  points : u.points = s.points
  presence : u.presence = s.presence
  outbox : u.outbox = s.outbox
  settings : u.settings = s.settings

theorem recordCheck_sameBehindLine (s : State) (x : InFrame) (cells : List Level) :
    SameBehindLine s (s.recordCheck x cells) := ⟨rfl, rfl, rfl, rfl, rfl, rfl, rfl⟩

section HandOn

variable {u : State} {f : Frame}

/-- In LISTEN a frame with the own number leaves DISCORD, list, count, points and presence table as they were (R97). -/
theorem handOn_discord (h : SameBehindLine s u) {n : Nat} (hst : s.station = .listen n) (hown : f.sender = s.own) :
    ∃ t, judgeFault s (u.handOn f) = t ∧ t.line = u.line
      ∧ t.port.counters = { u.port.counters with goodFrames := counted u.port.counters.goodFrames }
      ∧ t.annList.records = s.annList.records ∧ t.annList.overflow = s.annList.overflow ∧ t.lineCount = s.lineCount
      ∧ t.points = s.points ∧ t.presence = s.presence ∧ t.station = .discord ∧ t.outbox.entries = [] := by
  have hstation : u.station = .listen n := h.station.trans hst
  have hown' : f.sender = u.own := hown.trans (own_congr h.settings).symm
  obtain ⟨hst', hlist, hcount, houtbox, hpresence, hpoints, hcounters, -, hline⟩ :=
    judged_enterDiscord s (u.mapCounters fun c => { c with goodFrames := countUp c.goodFrames })
  rw [handOn_of_own hstation hown']
  refine ⟨_, rfl, hline.trans ?_, hcounters.trans ?_, (congrArg AnnList.records hlist).trans (congrArg AnnList.records h.annList :),
    (congrArg AnnList.overflow hlist).trans (congrArg AnnList.overflow h.annList :), hcount.trans h.lineCount, hpoints.trans h.points,
    hpresence.trans h.presence, hst', by rw [houtbox]; rfl⟩
  · rw [State.mapCounters_station, hstation]
    rfl
  · rw [State.mapCounters_port_counters, countUp_eq_counted]

/-- Any other frame that is handed on is heard (R125). -/
theorem handOn_heard (h : SameBehindLine s u) (hpeer : (∀ n, s.station ≠ .listen n) ∨ f.sender ≠ s.own) :
    ∃ t, judgeFault s (u.handOn f) = t ∧ t.line = u.line
      ∧ t.port.counters = { u.port.counters with goodFrames := counted u.port.counters.goodFrames }
      ∧ t.annList = s.annList ∧ t.lineCount = s.lineCount ∧ t.points = s.points
      ∧ t.presence.quiet = s.presence.quiet ∧ t.station = s.station
      ∧ t.outbox = { s.outbox with
          entries := s.outbox.entries.filter fun e => decide (f.sender = s.own) || e != ⟨.loss f.sender, false⟩ }
      ∧ (∀ n : StationNo, n ≠ f.sender ∨ n = s.own → t.presence.peers[n] = s.presence.peers[n])
      ∧ (f.sender ≠ s.own → (t.presence.peers[f.sender]).silence = 0
        ∧ t.peerState f.sender
          = if s.station.notesSenders = true then f.heardState (s.peerState f.sender) else s.peerState f.sender) := by
  have hown : u.own = s.own := own_congr h.settings
  set v := u.mapCounters fun c => { c with goodFrames := countUp c.goodFrames } with hv
  have hhand : u.handOn f = v.hear f := handOn_of_peer (by rw [h.station, hown]; exact hpeer)
  have hvown : v.own = s.own := hown
  have hvpresence : v.presence = s.presence := h.presence
  have hvstation : v.station = s.station := h.station
  have hvstate : v.peerState f.sender = s.peerState f.sender := by simp only [State.peerState, hvpresence]
  have hvoutbox : v.outbox = s.outbox := h.outbox
  have hvcounters : v.port.counters = { u.port.counters with goodFrames := counted u.port.counters.goodFrames } := by
    rw [hv, State.mapCounters_port_counters, countUp_eq_counted]
  obtain ⟨hlist, hcount, hpoints, hquiet, hcounters⟩ := hear_frame v f
  have houtbox := hear_outbox v f
  have hpeers (n : StationNo) := hear_peers_of_ne (s := v) (f := f) (n := n)
  have hsender := hear_sender (s := v) (f := f)
  rw [hvown] at hpeers hsender houtbox
  rw [hvpresence] at hpeers
  rw [hvstation, hvstate] at hsender
  rw [hvoutbox] at houtbox
  rw [hhand]
  exact ⟨_, rfl, hear_line v f, hcounters.trans hvcounters, hlist.trans h.annList, hcount.trans h.lineCount,
    hpoints.trans h.points, hquiet.trans (congrArg Presence.quiet hvpresence), (hear_station v f).trans hvstation,
    houtbox, hpeers, hsender⟩

end HandOn

/-- The slot that follows the check of a well-formed frame (Table 4-3, R68). -/
def State.driveAfterCheck (s : State) (f : Frame) (role : Role) : Option Slot :=
  match role with
  | .receiver => if s.station = .active then some (s.verdict f) else none
  | _ => some .veto

theorem slotDriven_wellFormed (s : State) (f : Frame) {role : Role} (hrole : role = .receiver ∨ ∃ g, role = .collided g) :
    s.slotDriven role (.wellFormed f) = s.driveAfterCheck f role := by
  rcases hrole with rfl | ⟨g, rfl⟩
  · simp only [State.slotDriven, State.driveAfterCheck, isActive_iff]
  · rfl

/-- What the record of the check of a frame's own cells leaves of line and counters. -/
theorem recordCheck_wellFormed (s : State) {f : Frame} (hf : f.wellFormed) (cell : Nat) {role : Role} (drive : Option Slot)
    (hrole : role = .receiver ∨ ∃ g, role = .collided g) :
    ∃ u y, s.recordCheck { cell := cell, role := role, heard := .unchecked, drive := drive } (frameCells f) = u
      ∧ u.line = { s.line with held := 0, frame := some y }
      ∧ y.role = role ∧ y.heard = .wellFormed f ∧ y.drive = s.slotDriven role (.wellFormed f)
      ∧ u.port.counters = { s.port.counters with
          vetosDriven := vetosAfterCheck f cell role s.port.counters.vetosDriven } := by
  have hheard : heardOf (readFrame (frameCells f)) = .wellFormed f := by
    rw [sentCellsReadBackAsTheSameFrame f hf]
    rfl
  have hveto := vetoAtCheck_wellFormed (s := s) f cell role drive hrole s.port.counters.vetosDriven
  rw [recordCheck_eq _ _ hheard rfl rfl rfl, (frameCells_run f).1, hveto]
  exact ⟨_, _, rfl, rfl, rfl, rfl, rfl, rfl⟩

/-- Settles O47: the check is recorded, and the frame is heard, or takes a LISTEN station to DISCORD. -/
theorem wellFormedFrameIsHeardAndJudged : Obligations.WellFormedFrameIsHeardAndJudged := by
  intro s f cell role drive hs hover hf hframe hrole
  have hexec := exec_frameChecked_wellFormed hs hover hframe hrole rfl hf
  have hsame := recordCheck_sameBehindLine s { cell := cell, role := role, heard := .unchecked, drive := drive } (frameCells f)
  have houter : s.sameOutside (judgeFault s ((s.recordCheck
      { cell := cell, role := role, heard := .unchecked, drive := drive } (frameCells f)).handOn f)) := by
    have hcheck := s.checkFrame_sameOutside { cell := cell, role := role, heard := .unchecked, drive := drive } (frameCells f)
    rw [State.checkFrame, sentCellsReadBackAsTheSameFrame f hf] at hcheck
    exact State.sameOutside_trans hcheck (judgeFault_sameOutside _ _)
  obtain ⟨u, y, hu, hline, hyrole, hyheard, hydrive, hcounters⟩ := recordCheck_wellFormed s hf cell drive hrole
  rw [hu] at hexec hsame houter
  have hdrive := hydrive.trans (slotDriven_wellFormed s f hrole)
  have hgood : ({ u.port.counters with goodFrames := counted u.port.counters.goodFrames } : Counters)
      = { s.port.counters with
          goodFrames := counted s.port.counters.goodFrames
          vetosDriven := vetosAfterCheck f cell role s.port.counters.vetosDriven } := by
    rw [hcounters]
  by_cases hdup : (∃ n, s.station = .listen n) ∧ f.sender = s.own
  · obtain ⟨⟨n, hst⟩, hown⟩ := hdup
    obtain ⟨t, ht, htline, htcounters, hrecords, hoverflow, hcount, hpoints, hpresence, hstation, hentries⟩ :=
      handOn_discord hsame hst hown
    rw [ht] at hexec houter
    refine ⟨t, y, hexec, htline.trans hline, hyrole, hyheard, hdrive, htcounters.trans hgood, hrecords, hoverflow, hcount,
      hpoints, by rw [hpresence], houter, fun _ _ => ⟨hstation, hentries⟩, fun h => ?_, fun _ _ => by rw [hpresence],
      fun h => absurd hown h⟩
    exact h.elim (fun h => absurd hst (h n)) fun h => absurd hown h
  · have hpeer : (∀ n, s.station ≠ .listen n) ∨ f.sender ≠ s.own := by
      by_cases hown : f.sender = s.own
      · exact .inl fun n hst => hdup ⟨⟨n, hst⟩, hown⟩
      · exact .inr hown
    obtain ⟨t, ht, htline, htcounters, hlist, hcount, hpoints, hquiet, hstation, houtbox, hpeers, hsender⟩ :=
      handOn_heard hsame hpeer
    rw [ht] at hexec houter
    refine ⟨t, y, hexec, htline.trans hline, hyrole, hyheard, hdrive, htcounters.trans hgood, by rw [hlist], by rw [hlist],
      hcount, hpoints, hquiet, houter, fun hst hown => absurd ⟨hst, hown⟩ hdup,
      fun _ => ⟨hstation, by rw [hlist], houtbox⟩, hpeers, fun hown => ?_⟩
    obtain ⟨hsilence, hstate⟩ := hsender hown
    refine ⟨hsilence, fun hnotes => ?_, fun hlisten hasking => ?_⟩
    · exact hstate.trans (if_pos (notesSenders_iff.2 hnotes))
    · exact hstate.trans (if_neg fun h => (notesSenders_iff.1 h).elim (fun ⟨n, h⟩ => hlisten n h) hasking)

end Check

end Sys2Proof.Machine

namespace Sys2Proof.Machine

set_option Elab.async false

/-! Own frames that are void (R75, R79, R80). -/

section Void

variable {s : State}

/-- A void own frame, vetoed, unheard or collided, ends in `State.void` (R68, R75). -/
theorem exec_voided {f : Frame} {slots : Slots} {awaits : Bool}
    (h : (s.hasSent f ∧ awaits = false
        ∧ (slots.veto = .dominant
          ∨ (slots = ⟨.recessive, .recessive, .recessive⟩ ∧ ∃ n, n ≠ s.own ∧ s.peerState n = .active)))
      ∨ s.hasCollided f awaits) :
    ∃ x : InFrame, exec (.ownFrameOutcome slots) s
      = .next (judgeFault s (((s.mapLine fun l => l.endFrame x slots).countVeto awaits).void)) := by
  rcases h with ⟨hsent, rfl, hslots⟩ | h
  · obtain ⟨x, -, hexec⟩ := exec_ownFrameOutcome hsent slots
    refine ⟨x, hexec.trans ?_⟩
    have hvoid : (s.mapLine fun l => l.endFrame x slots).ownOutcome f (slotsSeen slots none)
        = (s.mapLine fun l => l.endFrame x slots).void := by
      rcases hslots with hveto | ⟨rfl, hpeer⟩
      · exact if_pos (by simp [slotsSeen, slotLevel, hveto])
      · have hactive : (s.mapLine fun l => l.endFrame x ⟨.recessive, .recessive, .recessive⟩).hasActivePeer = true :=
          (hasActivePeer_iff _).2 hpeer
        simp [State.ownOutcome, slotsSeen, slotLevel, hactive]
    rw [hvoid]
    rfl
  · exact exec_ownFrameOutcome_collided h slots

theorem void_of_few (h : s.line.strikes < 15) : s.void
    = { s with
        line := { s.line with strikes := s.line.strikes + 1 }
        outbox := s.outbox.land
        port := { s.port with
          counters := { s.port.counters with ownVoided := countUp s.port.counters.ownVoided } } } :=
  if_pos (Nat.succ_lt_succ h)

theorem void_of_many (h : 15 ≤ s.line.strikes) : s.void
    = ({ s with
          line := { s.line with strikes := s.line.strikes + 1 }
          port := { s.port with
            counters := { s.port.counters with ownVoided := countUp s.port.counters.ownVoided } } } : State).enterMuted :=
  if_neg (not_lt.2 (Nat.succ_le_succ h))

/-- Settles O50: below 16 strikes the entry lands, at 16 the station is MUTED. -/
theorem voidedOwnFrameStrikesAndMutesAtSixteen : Obligations.VoidedOwnFrameStrikesAndMutesAtSixteen := by
  intro s f slots awaits h
  obtain ⟨x, hexec⟩ := exec_voided h
  set v := (s.mapLine fun l => l.endFrame x slots).countVeto awaits with hv
  have houter : s.sameOutside (judgeFault s v.void) := by
    refine State.sameOutside_trans ?_ (judgeFault_sameOutside _ _)
    exact State.sameOutside_trans (State.sameOutside_trans (s.mapLine_sameOutside _) (State.mapCounters_sameOutside _ _))
      v.void_sameOutside
  have hveto : v.port.counters = { s.port.counters with
      vetosDriven := if awaits = true then counted s.port.counters.vetosDriven else s.port.counters.vetosDriven } := by
    rw [← countIf_eq_counted]
    rfl
  refine ⟨_, hexec, ?_⟩
  rcases Nat.lt_or_ge s.line.strikes 15 with hfew | hmany
  · have hvoid := void_of_few (s := v) hfew
    have hjudge : judgeFault s v.void = v.void := judgeFault_id (by rw [hvoid]; exact faultOn_congr rfl rfl rfl rfl)
    rw [hjudge, hvoid] at houter ⊢
    refine ⟨rfl, rfl, rfl, rfl, rfl, rfl, rfl, rfl, rfl, houter, ?_, fun _ => ⟨rfl, rfl, rfl, rfl⟩, fun h => absurd h (by omega)⟩
    rw [hveto, if_pos hfew, countUp_eq_counted]
  · rw [void_of_many (s := v) hmany] at houter ⊢
    refine ⟨rfl, rfl, rfl, rfl, rfl, rfl, rfl, rfl, rfl, houter, ?_, fun h => absurd h (by omega),
      fun _ => ⟨rfl, rfl, rfl, fun p => Vector.getElem_replicate p.isLt, rfl⟩⟩
    change ({ v.port.counters with ownVoided := countUp v.port.counters.ownVoided, mutes := countUp v.port.counters.mutes } : Counters) = _
    rw [hveto, if_neg (not_lt.2 hmany), countUp_eq_counted, countUp_eq_counted]

end Void

/-! Reconciliation of every point (R145). -/

section Reconcile

variable {s : State}

theorem reconcilePoint_waiting {p q : LocalPoint} (h : p = q ∨ (s.points[p]).waiting = false) :
    ((s.reconcilePoint q).points[p]).waiting = false := by
  by_cases hpq : p = q
  · subst hpq
    rw [State.reconcilePoint_points_same]
    rfl
  · rw [State.reconcilePoint_points_other s hpq]
    exact h.resolve_left hpq

/-- No point that was reconciled is WAITING (R145). -/
theorem reconcilePoints_waiting {p : LocalPoint} {l : List LocalPoint} (h : p ∈ l ∨ (s.points[p]).waiting = false) :
    ((l.foldl State.reconcilePoint s).points[p]).waiting = false := by
  induction l generalizing s with
  | nil => exact h.resolve_left List.not_mem_nil
  | cons q l ih =>
    refine ih ?_
    rcases h with h | h
    · rcases List.mem_cons.1 h with h | h
      · exact .inr (reconcilePoint_waiting (.inl h))
      · exact .inl h
    · exact .inr (reconcilePoint_waiting (.inr h))

theorem reconcile_waiting (s : State) (p : LocalPoint) : (s.reconcile.points[p]).waiting = false :=
  reconcilePoints_waiting (.inl (List.mem_finRange p))

/-- Where every point is normal and not caught, and no record stands, reconciliation offers nothing (Tables 8-3, 8-4). -/
theorem reconcilePoints_outbox_of_normal {l : List LocalPoint} (hactive : s.station = .active)
    (hnormal : ∀ p : LocalPoint, (s.points[p]).abnormal = false ∧ (s.points[p]).caught = false)
    (hrecords : s.annList.records = []) : (l.foldl State.reconcilePoint s).outbox = s.outbox := by
  induction l generalizing s with
  | nil => rfl
  | cons q l ih =>
    have honly := s.reconcilePoint_pointsOnly q
    have hrecord : s.pointRecord q = none := by rw [State.pointRecord, hrecords]; rfl
    have hnone : s.reconcileOffer q = [] := by
      rw [State.reconcileOffer, hrecord, (hnormal q).2, reconcileSequence_eq_level_normal fun _ => (hnormal q).1]
      rfl
    rw [List.foldl_cons, ih, State.reconcilePoint_outbox_of_no_offer hactive hnone]
    · rw [State.pointsOnly_station honly, hactive]
    · intro p
      by_cases hpq : p = q
      · subst hpq
        rw [State.reconcilePoint_points_same]
        refine ⟨(hnormal p).1, ?_⟩
        simp only [Point.reconciled, reconcileCaught, (hnormal p).2, Bool.false_and]
      · rw [State.reconcilePoint_points_other s hpq]
        exact hnormal p
    · rw [State.pointsOnly_annList honly, hrecords]

end Reconcile

/-! The own JOIN, and own frames that are stepped (R78, R93, R95, R104, R105). -/

section OwnJoin

variable {s : State} {f : Frame}

theorem body_of_isJoin (h : f.isJoin = true) : ∃ r d, f.body = .join r d := by
  unfold Frame.isJoin at h
  split at h
  · next r d hbody => exact ⟨r, d, hbody⟩
  · cases h

theorem body_of_not_isJoin (h : f.isJoin = false) (r : Reason) (d : Half) : f.body ≠ .join r d := fun hbody => by
  rw [Frame.isJoin, hbody] at h
  cases h

theorem ownAccepted_of_join (h : f.isJoin = true) (lone : Bool) : s.ownAccepted f lone
    = if lone = true then s.creditAccepted.found else s.creditAccepted.becomeAdmitted := by
  obtain ⟨r, d, hbody⟩ := body_of_isJoin h
  rw [State.ownAccepted, hbody]

theorem ownAccepted_of_not_join (h : f.isJoin = false) (lone : Bool) :
    s.ownAccepted f lone = s.creditAccepted.accept .sender f := by
  unfold State.ownAccepted
  split
  · next hbody => exact absurd hbody (body_of_not_isJoin h _ _)
  · rfl

theorem stepped_of_join (h : f.isJoin = true) : s.stepped f = s.enterDiscord := by
  obtain ⟨r, d, hbody⟩ := body_of_isJoin h
  rw [State.stepped, hbody]

theorem stepped_of_not_join (h : f.isJoin = false) : s.stepped f = s.enterJoining .resync := by
  unfold State.stepped
  split
  · next hbody => exact absurd hbody (body_of_not_isJoin h _ _)
  · rfl

/-- What founding leaves (R104): the station ACTIVE at count 1 with the list it holds, its points reconciled. -/
theorem found_eq (s : State) : ∃ points outbox, s.found
    = { s with
        station := .active, lineCount := 1, points := points, outbox := outbox
        presence := { s.presence with quiet := 0 }
        port := s.port.noteState } := by
  obtain ⟨points, outbox, h⟩ := State.reconcile_pointsOnly (({ s with lineCount := 1 } : State).enterActive)
  exact ⟨points, outbox, h⟩

/-- Settles O52, by the slots that the sender sees. -/
theorem ownJoinFoundsIsAdmittedOrEndsInDiscord : Obligations.OwnJoinFoundsIsAdmittedOrEndsInDiscord := by
  intro s f slots hsent
  obtain ⟨x, -, hexec⟩ := exec_ownFrameOutcome hsent slots
  set u := s.mapLine fun l => l.endFrame x slots with hu
  have hout (v : State) (h : u.ownOutcome f (slotsSeen slots none) = v) : s.sameOutside (judgeFault s v) := by
    refine State.sameOutside_trans (State.sameOutside_trans (t := u) (s.mapLine_sameOutside _) ?_) (judgeFault_sameOutside s v)
    rw [← h]
    exact u.ownOutcome_sameOutside f _
  refine ⟨fun hjoin hslots hlone => ?_, fun hjoin hagree hveto => ?_, fun hslots => ⟨fun hjoin => ?_, fun hjoin => ?_⟩⟩
  · have hnone : u.hasActivePeer = false := Bool.eq_false_iff.2 fun h =>
      let ⟨n, hn, hactive⟩ := (hasActivePeer_iff u).1 h
      hlone n hn hactive
    have hfound : u.ownOutcome f (slotsSeen slots none) = u.creditAccepted.found := by
      rw [hslots]
      simp [State.ownOutcome, slotsSeen, slotLevel, hnone, ownAccepted_of_join hjoin]
    have houter := hout _ hfound
    have hpoints := State.reconcilePoints_congr (List.finRange 8)
      (s := { s with station := .active, outbox := s.outbox.depart })
      (t := ({ u.creditAccepted with lineCount := 1 } : State).enterActive) rfl rfl rfl rfl rfl
    have hwait := reconcile_waiting (({ u.creditAccepted with lineCount := 1 } : State).enterActive)
    obtain ⟨points, outbox, heq⟩ := found_eq u.creditAccepted
    have hreconcile : (({ u.creditAccepted with lineCount := 1 } : State).enterActive).reconcile = u.creditAccepted.found := rfl
    rw [hfound] at hexec
    rw [hreconcile, heq] at hwait
    change (u.creditAccepted.found).points = _ ∧ (u.creditAccepted.found).outbox = _ at hpoints
    rw [heq] at hpoints houter hexec
    refine ⟨_, hexec, rfl, rfl, rfl, rfl, rfl, rfl, rfl, rfl, houter, hwait, hpoints, fun hnormal hrecords => ?_⟩
    exact hpoints.2.trans (reconcilePoints_outbox_of_normal (s := { s with station := .active, outbox := s.outbox.depart })
      rfl hnormal hrecords)
  · have hadmitted : u.ownOutcome f (slotsSeen slots none) = u.creditAccepted.becomeAdmitted := by
      simp [State.ownOutcome, slotsSeen, slotLevel, hagree, hveto, ownAccepted_of_join hjoin]
    have houter := hout _ hadmitted
    rw [hadmitted] at hexec
    exact ⟨_, hexec, rfl, rfl, rfl, rfl, rfl, rfl, rfl, rfl, rfl, houter⟩
  · have hstepped : u.ownOutcome f (slotsSeen slots none) = u.enterDiscord := by
      rw [hslots]
      simp [State.ownOutcome, slotsSeen, slotLevel, stepped_of_join hjoin]
    have houter := hout _ hstepped
    rw [hstepped] at hexec
    exact ⟨_, hexec, rfl, rfl, rfl, rfl, fun p => Vector.getElem_replicate p.isLt, rfl, rfl, rfl, rfl, houter⟩
  · have hstepped : u.ownOutcome f (slotsSeen slots none) = u.enterJoining .resync := by
      rw [hslots]
      simp [State.ownOutcome, slotsSeen, slotLevel, stepped_of_not_join hjoin]
    rw [hstepped] at hexec
    refine ⟨_, hexec, joinsWith_enterJoining rfl rfl rfl (s.mapLine_sameOutside _) _, rfl, ?_⟩
    rw [← countUp_eq_counted]
    rfl

end OwnJoin

end Sys2Proof.Machine

namespace Sys2Proof.Machine

set_option Elab.async false

/-! Frames that change nothing, that divide, and that name the station (R89 to R97, R132). -/

section Received

variable {s : State} {f : Frame}

/-- A frame that no one accepts on the line and in which some slot is seen changes nothing, where the station is no stepper
of a JOIN without VETO (R89). -/
theorem receiverOutcome_of_void {drive : Option Slot} {seen : Seen} (haccepted : seen.accepted = false)
    (hsilent : seen.silent = false) (hstep : drive = some .step → f.isJoin = true → seen.veto = true) :
    s.receiverOutcome (.wellFormed f) drive seen = s := by
  unfold State.receiverOutcome
  split
  · next f' _ hf =>
    obtain rfl : f = f' := by cases hf; rfl
    unfold State.activeOutcome
    split
    · exact if_neg (by simp [haccepted])
    · split
      · next hjoin => exact if_pos (hstep rfl hjoin)
      · exact if_neg (by simp [haccepted])
    · rfl
  · exact if_neg (by simp [haccepted])
  · unfold State.admittedOutcome
    split
    · exact if_neg (by simp [haccepted, hsilent])
    · rfl
  · exact if_neg (by simp [haccepted, hsilent])
  · rfl

/-- A frame that finds no duplicate number and that the station does not act on leaves it outside the frame. -/
theorem exec_receivedFrameOutcome_of_quiet {drive : Option Slot} (h : s.hasHeard f drive) {slots : Slots}
    (hpeer : f.sender ≠ s.own ∨ (slotsSeen slots drive).accepted = false ∨ s.station.findsDuplicate = false)
    (hquiet : ∀ v : State, v.station = s.station → v.receiverOutcome (.wellFormed f) drive (slotsSeen slots drive) = v) :
    ∃ l, exec (.receivedFrameOutcome slots) s = .next { s with line := l } ∧ s.line.leftFrame l := by
  obtain ⟨x, rfl, hheard, hexec⟩ := exec_receivedFrameOutcome h slots
  have hend : s.endReceivedFrame x slots = s.mapLine fun l => l.endFrame x slots := by
    have hno : ¬(s.duplicate x.heard && (slotsSeen slots x.drive).accepted && s.station.findsDuplicate) = true := by
      rw [hheard, State.duplicate]
      rcases hpeer with h | h | h <;> simp [h]
    refine (if_neg hno).trans ?_
    rw [hheard]
    exact hquiet _ rfl
  have hjudge : judgeFault s (s.mapLine fun l => l.endFrame x slots) = s.mapLine fun l => l.endFrame x slots :=
    judgeFault_id (faultOn_congr rfl rfl rfl rfl)
  rw [hend, hjudge] at hexec
  exact ⟨_, hexec, endFrame_leftFrame _ _ _⟩

/-- Where the frame does not carry the own number, the receiver's outcome is judged (R97). -/
theorem exec_receivedFrameOutcome_of_peer {drive : Option Slot} (h : s.hasHeard f drive) (hpeer : f.sender ≠ s.own)
    (slots : Slots) : ∃ l, s.line.leftFrame l ∧ exec (.receivedFrameOutcome slots) s
      = .next (judgeFault s ((s.mapLine fun _ => l).receiverOutcome (.wellFormed f) drive (slotsSeen slots drive))) := by
  obtain ⟨x, rfl, hheard, hexec⟩ := exec_receivedFrameOutcome h slots
  rw [endReceivedFrame_of_peer hheard hpeer, hheard] at hexec
  exact ⟨_, endFrame_leftFrame s.line x slots, hexec⟩

theorem receiverOutcome_active (h : s.station = .active) (drive : Option Slot) (seen : Seen) :
    s.receiverOutcome (.wellFormed f) drive seen = s.activeOutcome f drive seen := by
  simp only [State.receiverOutcome, h]

/-- In LISTEN, asking and DISCORD a frame of a peer changes nothing (R89). -/
theorem receiverOutcome_passive
    (h : (∃ n, s.station = .listen n) ∨ s.station = .joining .asking ∨ s.station = .discord) (heard : Heard)
    (drive : Option Slot) (seen : Seen) : s.receiverOutcome heard drive seen = s := by
  unfold State.receiverOutcome
  rcases h with ⟨n, h⟩ | h | h <;> simp only [h]

theorem slotsSeen_veto {slots : Slots} (h : slots.veto = .dominant) (drive : Option Slot) :
    (slotsSeen slots drive).veto = true := by
  simp [slotsSeen, slotLevel, h]

/-- Settles O55: a frame that no one accepts changes nothing; a stepped one by its kind. -/
theorem voidFramesChangeNothingAndSteppedOnesDivide : Obligations.VoidFramesChangeNothingAndSteppedOnesDivide := by
  intro s f slots drive h
  refine ⟨fun hveto => ?_, fun hslots hdrive => ?_, fun hdrive hstation => ?_,
    fun hstation hdrive hveto hsender => ⟨fun hjoin hagree => ?_, fun hjoin hagree => ?_⟩⟩
  · have hseen := slotsSeen_veto hveto drive
    have haccepted : (slotsSeen slots drive).accepted = false := by simp [Seen.accepted, hseen]
    exact exec_receivedFrameOutcome_of_quiet h (.inr (.inl haccepted)) fun v _ =>
      receiverOutcome_of_void haccepted (by simp [Seen.silent, hseen]) fun _ _ => hseen
  · subst hslots
    have hseen : slotsSeen ⟨.recessive, .recessive, .dominant⟩ drive = ⟨false, false, true⟩ := by
      rcases hdrive with rfl | ⟨rfl, -⟩ <;> rfl
    have haccepted : (slotsSeen ⟨.recessive, .recessive, .dominant⟩ drive).accepted = false := by rw [hseen]; rfl
    refine exec_receivedFrameOutcome_of_quiet h (.inr (.inl haccepted)) fun v _ =>
      receiverOutcome_of_void haccepted (by rw [hseen]; rfl) fun hstep hjoin => ?_
    rcases hdrive with rfl | ⟨-, hnot⟩
    · cases hstep
    · cases hjoin.symm.trans hnot
  · subst hdrive
    rcases hstation with ⟨rfl, k, lost, hmuted⟩ | ⟨hpeer, hpassive⟩
    · refine exec_receivedFrameOutcome_of_quiet h (.inr (.inl rfl)) fun v hv => ?_
      have hv' := hv.trans hmuted
      cases lost <;> simp [State.receiverOutcome, hv', Seen.accepted, slotsSeen, slotLevel]
    · refine exec_receivedFrameOutcome_of_quiet h ?_ fun v hv => receiverOutcome_passive (by rwa [hv]) _ _ _
      exact hpeer.elim (fun hslots => .inr (.inl (by rw [hslots]; rfl))) .inl
  · subst hdrive
    obtain ⟨l, hleft, hexec⟩ := exec_receivedFrameOutcome_of_peer h hsender slots
    have hset : (s.mapLine fun _ => l).receiverOutcome (.wellFormed f) (some .step) (slotsSeen slots (some .step))
        = (s.mapLine fun _ => l).setPeer f.sender .discord := by
      rw [receiverOutcome_active (by exact hstation)]
      simp [State.activeOutcome, hjoin, slotsSeen, slotLevel, hveto, hagree]
    rw [hset] at hexec
    refine ⟨_, hexec, rfl, hleft, rfl, ?_, fun n hn => ?_⟩
    · exact (State.setPeer_peerState _ _ _ _).trans (if_pos ⟨rfl, hsender⟩)
    · exact (State.setPeer_get _ _ _ _).trans (if_neg fun h => hn h.1)
  · subst hdrive
    obtain ⟨l, hleft, hexec⟩ := exec_receivedFrameOutcome_of_peer h hsender slots
    have haccepted := slotsSeen_accepted (d := some .step) hveto nofun (.inl hagree)
    have henter : (s.mapLine fun _ => l).receiverOutcome (.wellFormed f) (some .step) (slotsSeen slots (some .step))
        = (s.mapLine fun _ => l).enterJoining .resync := by
      rw [receiverOutcome_active (by exact hstation)]
      simp [State.activeOutcome, hjoin, haccepted]
    rw [henter] at hexec
    obtain ⟨hframe, hframed, hgap, hstrikes⟩ := hleft
    refine ⟨_, hexec, joinsWith_enterJoining (s := s) (u := s.mapLine fun _ => l) rfl hstrikes rfl
      (s.mapLine_sameOutside _) _, rfl, ?_⟩
    rw [← countUp_eq_counted]
    rfl

/-! An accepted LOSS naming the station (R132). -/

theorem raiseRecords_length (options : Group → GroupOptions) (filling : Bool) (p : PointId) (g : Group)
    (rs : List Record) : rs.length ≤ (raiseRecords options filling p g rs).2.length := by
  unfold raiseRecords
  split
  · simp
  split
  · exact le_rfl
  split
  · simp
  · exact le_rfl

/-- A LOSS removes no record. -/
theorem loss_not_removes {options : Group → GroupOptions} {lossGroup : Group} {filling : Bool} {rs : List Record}
    {n : StationNo} (h : f.body = .loss n) : removes rs (alarmSequence options lossGroup filling f rs).2 = false := by
  have halarm : alarmSequence options lossGroup filling f rs = raiseRecords options filling (lossPoint n) lossGroup rs := by
    rw [alarmSequence, h]
  rw [halarm]
  exact decide_eq_false (not_lt.2 (raiseRecords_length _ _ _ _ _))

/-- A LOSS naming the station is applied, and takes a station that is not joining into JOINING (R132). -/
theorem accept_ownLoss {how : Acceptance} (hhow : how ≠ .filling) (h : f.body = .loss s.own) :
    s.accept how f = (s.acceptedBeforeOffers how f).enterJoining .lost := by
  have hno : removes s.annList.records
      (alarmSequence s.options s.inUse.lossGroup (decide (how = .filling)) f s.annList.records).2 = false :=
    loss_not_removes h
  have hwalk (v : State) : v.walkOffers how f = v := by
    unfold State.walkOffers
    rw [h]
    cases how <;> rfl
  have hown (v : State) (hv : v.settings = s.settings) : v.ownLoss how f = v.enterJoining .lost := by
    have hv' : v.own = s.own := own_congr hv
    unfold State.ownLoss
    rw [h]
    cases how <;> first | exact absurd rfl hhow | exact if_pos hv'.symm
  have hsettings := s.acceptedBeforeOffers_settings how f
  unfold State.accept
  unfold State.acceptedBeforeOffers at hsettings ⊢
  dsimp only at hsettings ⊢
  rw [hno]
  rw [hwalk] at hsettings ⊢
  rw [hwalk, hown _ hsettings]
  rfl

/-- What a LOSS naming the station leaves, accepted by agreement or by a MUTED station (R132). -/
theorem ownLoss_joins {u : State} {l : Line} (hu : u = s.mapLine fun _ => l) (hleft : s.line.leftFrame l)
    {how : Acceptance} (hhow : how = .agreed ∨ how = .muted) (h : f.body = .loss s.own) :
    s.joinsWith (judgeFault s (u.accept how f)) .lost
    ∧ (judgeFault s (u.accept how f)).lineCount = s.lineCount + 1
    ∧ (judgeFault s (u.accept how f)).port.counters.resyncs = s.port.counters.resyncs := by
  subst hu
  set u := s.mapLine fun _ => l with hu
  have hfilling : how ≠ .filling := by rcases hhow with rfl | rfl <;> nofun
  have hpoints : (u.acceptedBeforeOffers how f).points = s.points := by
    rw [State.acceptedBeforeOffers_points]
    rcases hhow with rfl | rfl <;> rfl
  have hstrikes : (u.acceptedBeforeOffers how f).line.strikes = s.line.strikes := by
    rw [State.acceptedBeforeOffers_line]
    exact hleft.2.2.2
  have hcounters : (u.acceptedBeforeOffers how f).port.counters.resyncs = s.port.counters.resyncs := by
    rw [State.acceptedBeforeOffers_port_counters]
    rfl
  have houter : s.sameOutside (u.acceptedBeforeOffers how f) := by
    unfold State.acceptedBeforeOffers
    dsimp only
    refine State.sameOutside_trans ?_ (State.walkOffers_sameOutside _ _ _)
    refine State.sameOutside_trans ?_ (State.walkEffects_sameOutside _ _ _)
    refine State.sameOutside_trans ?_ (State.presenceEffects_sameOutside _ _ _)
    refine State.sameOutside_trans ?_ (State.reportRaise_sameOutside _ _ _ _)
    refine State.sameOutside_trans ?_ (State.applyAlarm_sameOutside _ _ _)
    exact State.sameOutside_trans (t := u) (s.mapLine_sameOutside _) u.countAccepted_sameOutside
  rw [accept_ownLoss hfilling (by exact h)]
  have hstation : (u.acceptedBeforeOffers how f).station = s.station := State.acceptedBeforeOffers_station ..
  refine ⟨joinsWith_enterJoining hstation hstrikes hpoints houter _,
    State.acceptedBeforeOffers_lineCount .., ?_⟩
  rw [← hcounters]
  rfl

/-- Settles O56: the duplicate check comes first; a LOSS naming the station is applied and then joins. -/
theorem ownNumberLeadsToDiscordAndOwnLossToJoining : Obligations.OwnNumberLeadsToDiscordAndOwnLossToJoining := by
  intro s f slots drive h hveto hdrive hagree
  have haccepted := slotsSeen_accepted hveto hdrive hagree
  refine ⟨fun hown hstation => ?_, fun hsender hbody hhow => ?_⟩
  · obtain ⟨x, rfl, hheard, hexec⟩ := exec_receivedFrameOutcome h slots
    have hfinds : s.station.findsDuplicate = true := by
      rcases hstation with ⟨phase, h⟩ | h | ⟨k, lost, h⟩ <;> rw [h] <;> rfl
    have hdup : s.duplicate x.heard = true := by
      rw [hheard]
      exact decide_eq_true hown
    have hend : s.endReceivedFrame x slots = (s.mapLine fun l => l.endFrame x slots).enterDiscord :=
      if_pos (by rw [hdup, haccepted, hfinds]; rfl)
    rw [hend] at hexec
    exact ⟨_, hexec, rfl, rfl, rfl, rfl, rfl, rfl, rfl, rfl, rfl,
      State.sameOutside_trans (State.sameOutside_trans (s.mapLine_sameOutside _) (State.enterDiscord_sameOutside _))
        (judgeFault_sameOutside _ _)⟩
  · obtain ⟨l, hleft, hexec⟩ := exec_receivedFrameOutcome_of_peer h hsender slots
    rcases hhow with ⟨hactive, rfl⟩ | ⟨⟨k, hmuted⟩, hcount⟩
    · have haccept : (s.mapLine fun _ => l).receiverOutcome (.wellFormed f) (some .agree) (slotsSeen slots (some .agree))
          = (s.mapLine fun _ => l).accept .agreed f := by
        rw [receiverOutcome_active (by exact hactive)]
        exact if_pos haccepted
      rw [haccept] at hexec
      exact ⟨_, hexec, ownLoss_joins rfl hleft (.inl rfl) hbody⟩
    · have hstep : (s.mapLine fun _ => l).inStep f = true := by simp [State.inStep, hcount]
      have haccept : (s.mapLine fun _ => l).receiverOutcome (.wellFormed f) drive (slotsSeen slots drive)
          = (s.mapLine fun _ => l).accept .muted f := by
        simp [State.receiverOutcome, hmuted, haccepted, State.mutedOutcome, hstep]
      rw [haccept] at hexec
      exact ⟨_, hexec, ownLoss_joins rfl hleft (.inr rfl) hbody⟩

end Received

end Sys2Proof.Machine

namespace Sys2Proof.Machine

set_option Elab.async false

/-! Acceptance as a whole (R58, R59), where the bulletin does not name the station itself lost. -/

/-- The alarm sequence of an accepted bulletin, as the station would apply it. -/
def State.alarmOf (s : State) (how : Acceptance) (f : Frame) : RaiseResult × List Record :=
  alarmSequence s.options s.inUse.lossGroup (decide (how = .filling)) f s.annList.records

/-- The bulletin removes a record of the station's list (R8). -/
def State.removedBy (s : State) (how : Acceptance) (f : Frame) : Prop :=
  (s.alarmOf how f).2.length < s.annList.records.length

/-- The cursors of walks, where the bulletin removes a record (R17). -/
def State.repairedWalks (s : State) (how : Acceptance) (f : Frame) : List Walk :=
  if removes s.annList.records (s.alarmOf how f).2 then
    repairWalks s.annList.records (s.alarmOf how f).2 s.annList.walks
  else s.annList.walks

section Accept

variable {s : State} {how : Acceptance} {f : Frame}

theorem removes_iff : removes s.annList.records (s.alarmOf how f).2 = true ↔ s.removedBy how f := decide_eq_true_iff

theorem repairedWalks_of_kept (h : ¬s.removedBy how f) : s.repairedWalks how f = s.annList.walks :=
  if_neg fun hr => h (removes_iff.1 hr)

theorem repairedWalks_eq : s.repairedWalks how f
    = if (s.alarmOf how f).2.length < s.annList.records.length then
        s.annList.walks.map fun w => { w with cursor := repairCursor s.annList.records (s.alarmOf how f).2 w.cursor }
      else s.annList.walks := by
  unfold State.repairedWalks repairWalks
  by_cases h : s.removedBy how f
  · rw [if_pos (removes_iff.2 h)]
    exact (if_pos h).symm
  · rw [if_neg fun hr => h (removes_iff.1 hr)]
    exact (if_neg h).symm

/-- What an accepted bulletin leaves of every block but points, outbox and walks. -/
structure Accepted (s : State) (how : Acceptance) (f : Frame) (t : State) : Prop where
  station : t.station = s.station
  lineCount : t.lineCount = s.lineCount + 1
  line : t.line = s.line
  settings : t.settings = s.settings
  records : t.annList.records = (s.alarmOf how f).2
  overflow : t.annList.overflow
    = if (s.alarmOf how f).1 = .refused then true
      else if (s.alarmOf how f).2.length < s.annList.records.length then false else s.annList.overflow
  walks : t.annList.walks = (s.acceptedBeforeOffers how f).annList.walks
  presence : t.presence = (s.presenceEffects how f).presence
  counters : t.port.counters = { s.port.counters with
    overflowRefusals := if (s.alarmOf how f).1 = .refused then counted s.port.counters.overflowRefusals
      else s.port.counters.overflowRefusals }
  stateChanged : t.port.latches.stateChanged = s.port.latches.stateChanged

theorem overflowAfter_eq : overflowAfter (s.alarmOf how f).1 (removes s.annList.records (s.alarmOf how f).2) s.annList.overflow
    = if (s.alarmOf how f).1 = .refused then true
      else if (s.alarmOf how f).2.length < s.annList.records.length then false else s.annList.overflow := by
  unfold overflowAfter removes
  simp only [decide_eq_true_eq]

theorem accepted_beforeOffers (s : State) (how : Acceptance) (f : Frame) :
    Accepted s how f (s.acceptedBeforeOffers how f) where
  station := s.acceptedBeforeOffers_station how f
  lineCount := s.acceptedBeforeOffers_lineCount how f
  line := s.acceptedBeforeOffers_line how f
  settings := s.acceptedBeforeOffers_settings how f
  records := s.acceptedBeforeOffers_annList_records how f
  overflow := (s.acceptedBeforeOffers_annList_overflow how f).trans overflowAfter_eq
  walks := rfl
  presence := s.acceptedBeforeOffers_presence how f
  counters := by
    rw [State.acceptedBeforeOffers_port_counters, countIf_eq_counted]
    simp only [decide_eq_true_eq]
    rfl
  stateChanged := s.acceptedBeforeOffers_port_latches_stateChanged how f

/-- Without a removal acceptance is whole before the offers of one. -/
theorem accept_of_kept (h : f.body ≠ .loss s.own) (hkept : ¬s.removedBy how f) :
    s.accept how f = s.acceptedBeforeOffers how f := by
  have hno : removes s.annList.records (s.alarmOf how f).2 = false := Bool.eq_false_iff.2 fun hr => hkept (removes_iff.1 hr)
  rw [State.accept_of_ne h]
  exact if_neg (by rw [State.alarmOf] at hno; rw [hno]; nofun)

theorem accept_of_removed (h : f.body ≠ .loss s.own) (hremoved : s.removedBy how f) :
    s.accept how f = (s.acceptedBeforeOffers how f).afterRemoval true := by
  have hyes := removes_iff.2 hremoved
  rw [State.alarmOf] at hyes
  rw [State.accept_of_ne h, hyes]

/-- What an accepted bulletin leaves of every block but points and outbox (R58). -/
theorem accepted_accept (h : f.body ≠ .loss s.own) : Accepted s how f (s.accept how f) := by
  have hbefore := accepted_beforeOffers s how f
  by_cases hremoved : s.removedBy how f
  · have honly := (s.acceptedBeforeOffers how f).afterRemoval_pointsOnly true
    rw [accept_of_removed h hremoved, State.eq_of_pointsOnly honly]
    exact ⟨hbefore.station, hbefore.lineCount, hbefore.line, hbefore.settings, hbefore.records, hbefore.overflow, rfl,
      hbefore.presence, hbefore.counters, hbefore.stateChanged⟩
  · rw [accept_of_kept h hremoved]
    exact hbefore

/-- At a station that is not ACTIVE a removal acceptance offers nothing (R45, R144). -/
theorem accept_of_not_active (h : f.body ≠ .loss s.own) (hstation : s.station ≠ .active) :
    s.accept how f = s.acceptedBeforeOffers how f := by
  by_cases hremoved : s.removedBy how f
  · set b := s.acceptedBeforeOffers how f with hb
    have hactive : b.isActive = false := decide_eq_false (by rwa [hb, State.acceptedBeforeOffers_station])
    have hwaiting : b.requeueWaiting = b := if_neg (by rw [hactive]; nofun)
    have hlosses : b.requeueLosses = b := by
      have hone (n : StationNo) : b.requeueLoss n = b := by
        unfold State.requeueLoss
        split
        · exact b.offer_of_not_active _ hactive
        · rfl
      have hall (l : List StationNo) : l.foldl State.requeueLoss b = b := by
        induction l with
        | nil => rfl
        | cons n l ih => rw [List.foldl_cons, hone, ih]
      exact hall _
    rw [accept_of_removed h hremoved]
    change b.requeueWaiting.requeueLosses = b
    rw [hwaiting, hlosses]
  · exact accept_of_kept h hremoved

/-! Points and removals by the kind of the bulletin. -/

/-- A RAISE removes no record. -/
theorem raise_kept {p : LocalPoint} {g : Group} (h : f.body = .raise p g) : ¬s.removedBy how f := by
  have halarm : s.alarmOf how f
      = raiseRecords s.options (decide (how = .filling)) (fieldPoint f.sender p) g s.annList.records := by
    rw [State.alarmOf, alarmSequence, h]
  rw [State.removedBy, halarm]
  exact not_lt.2 (raiseRecords_length _ _ _ _ _)

theorem loss_kept {n : StationNo} (h : f.body = .loss n) : ¬s.removedBy how f := fun hremoved => by
  have hno : removes s.annList.records (s.alarmOf how f).2 = false := loss_not_removes h
  cases hno.symm.trans (removes_iff.2 hremoved)

theorem roll_kept {r : Roll} (h : f.body = .transferRoll r) : ¬s.removedBy how f := by
  have halarm : (s.alarmOf how f).2 = s.annList.records := by rw [State.alarmOf, alarmSequence, h]
  rw [State.removedBy, halarm]
  exact lt_irrefl _

/-- Only the sender of a RAISE has a point reported to (R24). -/
theorem beforeOffers_points_of_ne (h : how ≠ .sender ∨ ∀ p g, f.body ≠ .raise p g) :
    (s.acceptedBeforeOffers how f).points = s.points := by
  rw [State.acceptedBeforeOffers_points]
  unfold State.reportRaise
  split
  · next hbody => exact h.elim (fun h => absurd rfl h) fun h => absurd hbody (h _ _)
  · rfl

theorem beforeOffers_points_of_raise {p : LocalPoint} {g : Group} (h : f.body = .raise p g) :
    (s.acceptedBeforeOffers .sender f).points
      = update s.points p fun pt => pt.report (s.alarmOf .sender f).1 := by
  rw [State.acceptedBeforeOffers_points]
  unfold State.reportRaise
  rw [h]
  rfl

/-! Walks and outbox by the kind of the bulletin (R55, R107, R109, R118). -/

/-- The state before the walks take part. -/
def State.beforeWalks (s : State) (how : Acceptance) (f : Frame) : State :=
  ((s.countAccepted.applyAlarm (s.alarmOf how f).1 (s.alarmOf how f).2).reportRaise how f (s.alarmOf how f).1).presenceEffects
    how f

theorem beforeOffers_eq (s : State) (how : Acceptance) (f : Frame) :
    s.acceptedBeforeOffers how f = ((s.beforeWalks how f).walkEffects how f).walkOffers how f := rfl

theorem beforeWalks_walks : (s.beforeWalks how f).annList.walks = s.repairedWalks how f := by
  simp [State.beforeWalks, State.presenceOnly_annList (State.presenceEffects_presenceOnly _ how f), State.repairedWalks]
  rfl

theorem beforeWalks_outbox : (s.beforeWalks how f).outbox = s.outbox := by
  simp [State.beforeWalks, State.presenceOnly_outbox (State.presenceEffects_presenceOnly _ how f)]

theorem beforeWalks_station : (s.beforeWalks how f).station = s.station := by
  simp [State.beforeWalks, State.presenceOnly_station (State.presenceEffects_presenceOnly _ how f)]

/-- A bulletin that is no LOSS, JOIN or transfer roll touches neither outbox nor walks but for their cursors. -/
theorem beforeOffers_plain (hjoin : f.isJoin = false) (hloss : ∀ n, f.body ≠ .loss n)
    (hroll : ∀ r, f.body ≠ .transferRoll r) :
    (s.acceptedBeforeOffers how f).outbox = s.outbox
    ∧ (s.acceptedBeforeOffers how f).annList.walks = s.repairedWalks how f := by
  have heffects : (s.beforeWalks how f).walkEffects how f = s.beforeWalks how f := by
    unfold State.walkEffects
    split
    · next hbody => exact absurd hbody (hloss _)
    · next hbody => exact absurd hbody (body_of_not_isJoin hjoin _ _)
    · next hbody => exact absurd hbody (hroll _)
    · rfl
  have hoffers : (s.beforeWalks how f).walkOffers how f = s.beforeWalks how f := by
    unfold State.walkOffers
    split
    · next hbody => exact absurd hbody (body_of_not_isJoin hjoin _ _)
    · next hbody => exact absurd hbody (hroll _)
    · rfl
  rw [beforeOffers_eq, heffects, hoffers]
  exact ⟨beforeWalks_outbox, beforeWalks_walks⟩

/-- A LOSS discards its station's walk and withdraws what is pending for it (R55, R118). -/
theorem beforeOffers_loss {n : StationNo} (h : f.body = .loss n) :
    (s.acceptedBeforeOffers how f).outbox = (s.outbox.withdraw (.transferRoll n)).withdraw (.loss n)
    ∧ (s.acceptedBeforeOffers how f).annList.walks = s.annList.walks.filter fun w => w.target != n := by
  have heffects : (s.beforeWalks how f).walkEffects how f
      = ((s.beforeWalks how f).discardWalk n).mapOutbox fun o => o.withdraw (.loss n) := by
    rw [State.walkEffects, h]
  have hoffers (v : State) : v.walkOffers how f = v := by
    unfold State.walkOffers
    rw [h]
    cases how <;> rfl
  have hwalks := (beforeWalks_walks (s := s)).trans (repairedWalks_of_kept (how := how) (loss_kept h))
  rw [beforeOffers_eq, heffects, hoffers]
  exact ⟨congrArg (fun o : Outbox => (o.withdraw (.transferRoll n)).withdraw (.loss n)) beforeWalks_outbox,
    congrArg (List.filter fun w : Walk => w.target != n) hwalks⟩

/-- Another's transfer roll ends the own walk for its target (R107). -/
theorem beforeOffers_roll {r : Roll} (h : f.body = .transferRoll r) (hhow : how ≠ .sender) :
    (s.acceptedBeforeOffers how f).outbox = s.outbox.withdraw (.transferRoll r.target)
    ∧ (s.acceptedBeforeOffers how f).annList.walks = s.annList.walks.filter fun w => w.target != r.target := by
  have heffects : (s.beforeWalks how f).walkEffects how f = (s.beforeWalks how f).discardWalk r.target := by
    rw [State.walkEffects, h]
    exact if_neg hhow
  have hoffers (v : State) : v.walkOffers how f = v := by
    unfold State.walkOffers
    rw [h]
    cases how <;> first | exact absurd rfl hhow | rfl
  have hwalks := (beforeWalks_walks (s := s)).trans (repairedWalks_of_kept (how := how) (roll_kept h))
  rw [beforeOffers_eq, heffects, hoffers]
  exact ⟨congrArg (fun o : Outbox => o.withdraw (.transferRoll r.target)) beforeWalks_outbox,
    congrArg (List.filter fun w : Walk => w.target != r.target) hwalks⟩

/-- The sender of a transfer roll moves its walk on, and offers the next roll unless this one was the last (R109). -/
theorem beforeOffers_ownRoll {r : Roll} (h : f.body = .transferRoll r) (hactive : s.station = .active) :
    (s.acceptedBeforeOffers .sender f).outbox = (if r.last then s.outbox else s.outbox.transferRollOffer r.target)
    ∧ (s.acceptedBeforeOffers .sender f).annList.walks = advanceWalks r s.annList.walks := by
  have heffects : (s.beforeWalks .sender f).walkEffects .sender f
      = (s.beforeWalks .sender f).putWalks (advanceWalks r (s.beforeWalks .sender f).annList.walks) := by
    rw [State.walkEffects, h]
    exact if_pos rfl
  have hoffers (v : State) : v.walkOffers .sender f = v.offer fun o => if r.last then o else o.transferRollOffer r.target := by
    unfold State.walkOffers
    rw [h]
  have hstation : ((s.beforeWalks .sender f).putWalks (advanceWalks r (s.beforeWalks .sender f).annList.walks)).station
      = .active := by rw [State.putWalks_station, beforeWalks_station, hactive]
  have hwalks := (beforeWalks_walks (s := s)).trans (repairedWalks_of_kept (how := .sender) (roll_kept h))
  rw [beforeOffers_eq, heffects, hoffers, offer_outbox, if_pos hstation]
  exact ⟨congrArg (fun o : Outbox => if r.last then o else o.transferRollOffer r.target) beforeWalks_outbox,
    congrArg (advanceWalks r) hwalks⟩

/-! Presence entries by the kind of the bulletin (R124). -/

theorem noteSender_get_of_ne {m n : StationNo} (h : n ≠ m) : (s.noteSender m).presence.peers[n] = s.presence.peers[n] := by
  unfold State.noteSender
  split <;> first | rfl | exact (State.setPeer_get _ _ _ _).trans (if_neg fun h' => h h'.1)

theorem noteSender_peerState_same {n : StationNo} (hn : n ≠ s.own) :
    (s.noteSender n).peerState n = notedState (s.peerState n) := by
  have hset (x : PeerState) : (s.setPeer n x).peerState n = x :=
    (State.setPeer_peerState _ _ _ _).trans (if_pos ⟨rfl, hn⟩)
  unfold State.noteSender
  split <;> next h => simp only [hset, h, notedState]

/-- The own number has no entry to note (R122). -/
theorem setPeer_own {n : StationNo} (hn : n = s.own) (x : PeerState) : s.setPeer n x = s := by
  have hno : decide (n ≠ s.own ∧ s.peerState n ≠ x) = false := decide_eq_false fun h => h.1 hn
  simp only [State.setPeer, hno, Port.notePresence, Bool.or_false, Bool.false_eq_true, if_false]

theorem noteSender_own {n : StationNo} (hn : n = s.own) : s.noteSender n = s := by
  unfold State.noteSender
  split <;> first | exact setPeer_own hn _ | rfl

theorem presenceEffects_plain (hjoin : f.isJoin = false) (hloss : ∀ n, f.body ≠ .loss n)
    (hroll : ∀ r, f.body ≠ .transferRoll r) : s.presenceEffects how f = s.noteSender f.sender := by
  unfold State.presenceEffects
  split
  · next hbody => exact absurd hbody (body_of_not_isJoin hjoin _ _)
  · next hbody => exact absurd hbody (hloss _)
  · next hbody => exact absurd hbody (hroll _)
  all_goals rfl

end Accept

end Sys2Proof.Machine

namespace Sys2Proof.Machine

set_option Elab.async false

/-! The end of a flight in acceptance (R50, R59). -/

section Depart

variable {o : Outbox} {older newer : List Entry}

theorem eraseP_at {x : Subject} (holder : ∀ e ∈ older, e.inFlight = false) :
    (older ++ ⟨x, true⟩ :: newer).eraseP Entry.inFlight = older ++ newer := by
  rw [List.eraseP_append_right _ (fun e he => by simp [holder e he]), List.eraseP_cons_of_pos rfl]

theorem depart_of_not_owed {x : Subject} (h : o.entries = older ++ ⟨x, true⟩ :: newer)
    (holder : ∀ e ∈ older, e.inFlight = false) (howed : ∀ p : LocalPoint, x = .ret p → o.owed[p] = false) :
    o.depart = { o with entries := older ++ newer } := by
  rw [Outbox.depart, flying_at h holder, h, eraseP_at holder]
  unfold Outbox.settle
  split
  · next p hp =>
    obtain rfl := Option.some.inj hp
    exact if_neg (by simpa using howed p rfl)
  · rfl

theorem depart_of_owed {p : LocalPoint} (h : o.entries = older ++ ⟨.ret p, true⟩ :: newer)
    (holder : ∀ e ∈ older, e.inFlight = false) (howed : o.owed[p] = true) :
    o.depart = Outbox.pulseOffer { entries := older ++ newer, owed := update o.owed p fun _ => false } p := by
  rw [Outbox.depart, flying_at h holder, h, eraseP_at holder]
  exact if_pos howed

end Depart

/-! Points, outbox and entries after an acceptance. -/

section Offers

variable {s : State} {how : Acceptance} {f : Frame}

/-- A removal acceptance at an ACTIVE station offers for points and peers behind what the bulletin leaves (R131, R144). -/
theorem accept_removal (hown : f.body ≠ .loss s.own) (hactive : s.station = .active) (hremoved : s.removedBy how f) :
    (∀ q : LocalPoint, (s.accept how f).points[q] = { s.points[q] with waiting := false })
    ∧ (s.accept how f).outbox = s.removalOffers (s.accept how f) (s.acceptedBeforeOffers how f).outbox := by
  have hpoints : (s.acceptedBeforeOffers how f).points = s.points :=
    beforeOffers_points_of_ne (.inr fun p g hbody => raise_kept hbody hremoved)
  have hsettings := s.acceptedBeforeOffers_settings how f
  have honly := (s.acceptedBeforeOffers how f).afterRemoval_pointsOnly true
  obtain ⟨houtbox, hwaiting⟩ := State.afterRemoval_eq
    (s := s.acceptedBeforeOffers how f) ((s.acceptedBeforeOffers_station how f).trans hactive)
  rw [accept_of_removed hown hremoved]
  refine ⟨fun q => ?_, ?_⟩
  · rw [hwaiting q, hpoints]
  · rw [houtbox, State.removalOffers_congr (t := (s.acceptedBeforeOffers how f).afterRemoval true) hpoints hsettings
      (by rw [State.pointsOnly_presence honly]) (by rw [State.pointsOnly_annList honly])]

theorem filter_two_withdrawn (o : Outbox) (x y : Subject) : (o.withdraw x).withdraw y
    = { o with entries := o.entries.filter fun e => e != ⟨x, false⟩ && e != ⟨y, false⟩ } := by
  have hentries : ((o.withdraw x).withdraw y).entries
      = o.entries.filter fun e => e != ⟨x, false⟩ && e != ⟨y, false⟩ := by
    rw [withdraw_entries, withdraw_entries, List.filter_filter]
    exact List.filter_congr fun e _ => Bool.and_comm _ _
  rw [← hentries]
  rfl

/-- The walks after the own roll (R109). -/
theorem advanceWalks_last {r : Roll} (h : r.last = true) (ws : List Walk) :
    advanceWalks r ws = ws.filter fun w => w.target != r.target := if_pos h

theorem advanceWalks_next {r : Roll} (h : r.last = false) (ws : List Walk) : advanceWalks r ws
    = ws.map fun w => if w.target = r.target then { w with cursor := (r.record.map Record.id).or w.cursor } else w := by
  refine (if_neg (by rw [h]; nofun)).trans (List.map_congr_left fun w _ => ?_)
  cases r.record <;> simp

/-- What a LOSS leaves of the entry of the station it names (R130). -/
theorem markLost_peerState {v : State} {n : StationNo} (before : PeerState) (hn : n ≠ v.own) :
    (before ≠ .discord → (before = .silent → v.peerState n = .silent) → (v.markLost before n).peerState n = .silent)
    ∧ (before = .discord → (v.markLost before n).peerState n = v.peerState n) := by
  have hset : (v.setPeer n .silent).peerState n = .silent := (State.setPeer_peerState _ _ _ _).trans (if_pos ⟨rfl, hn⟩)
  cases before
  case silent => exact ⟨fun _ h => h rfl, nofun⟩
  case discord => exact ⟨fun h => absurd rfl h, fun _ => rfl⟩
  all_goals exact ⟨fun _ _ => hset, nofun⟩

theorem markLost_get_of_ne {v : State} {m n : StationNo} (before : PeerState) (h : m ≠ n) :
    (v.markLost before n).presence.peers[m] = v.presence.peers[m] := by
  unfold State.markLost
  split <;> first | rfl | exact (State.setPeer_get _ _ _ _).trans (if_neg fun h' => h h'.1)

theorem notedState_of_lost {x : PeerState} (h : x = .silent ∨ x = .discord) : notedState x = x := by
  rcases h with rfl | rfl <;> rfl

/-- The LOSS row of Table 7-3 at the named station's entry, whoever sent the frame (R124). -/
theorem presenceEffects_loss {n : StationNo} (h : f.body = .loss n) (hn : n ≠ s.own) :
    (s.peerState n ≠ .discord → (s.presenceEffects how f).peerState n = .silent)
    ∧ (s.peerState n = .discord → (s.presenceEffects how f).peerState n = .discord) := by
  have heffects : s.presenceEffects how f = (s.noteSender f.sender).markLost (s.peerState n) n := by
    rw [State.presenceEffects, h]
  have hown : (s.noteSender f.sender).own = s.own :=
    own_congr (State.presenceOnly_settings (s.noteSender_presenceOnly f.sender))
  have hkept (hlost : s.peerState n = .silent ∨ s.peerState n = .discord) :
      (s.noteSender f.sender).peerState n = s.peerState n := by
    by_cases hsender : n = f.sender
    · rw [← hsender, noteSender_peerState_same hn, notedState_of_lost hlost]
    · simp only [State.peerState, noteSender_get_of_ne hsender]
  obtain ⟨hmark, hdiscord⟩ := markLost_peerState (v := s.noteSender f.sender) (s.peerState n) (n := n) (by rwa [hown])
  rw [heffects]
  refine ⟨fun hne => hmark hne fun hsilent => (hkept (.inl hsilent)).trans hsilent, fun heq => ?_⟩
  exact (hdiscord heq).trans ((hkept (.inr heq)).trans heq)

end Offers

/-! The acceptance of an own bulletin (R76, R77). -/

section Own

variable {s : State} {f : Frame}

/-- The station after the first effects of an accepted own frame, with the line as they leave it (R59, R76, R129). -/
def State.credited (s : State) (l : Line) : State :=
  { s with
    line := l
    outbox := s.outbox.depart
    presence := { s.presence with quiet := 0 } }

theorem exec_ownAccepted {slots : Slots} (h : s.hasSent f) (hjoin : f.isJoin = false)
    (haccepted : (slots.agree = .dominant ∧ slots.veto = .recessive)
      ∨ (slots = ⟨.recessive, .recessive, .recessive⟩ ∧ ∀ n, n ≠ s.own → s.peerState n ≠ .active)) :
    ∃ l : Line, l.frame = none ∧ l.framed = true ∧ l.gap = 0 ∧ l.strikes = s.line.strikes - 1
      ∧ exec (.ownFrameOutcome slots) s
        = .next (judgeFault s ((s.credited l).accept .sender f)) := by
  obtain ⟨x, -, hexec⟩ := exec_ownFrameOutcome h slots
  refine ⟨{ s.line.endFrame x slots with strikes := s.line.strikes - 1 }, rfl, rfl, rfl, rfl, hexec.trans ?_⟩
  have howned (lone : Bool) := ownAccepted_of_not_join (s := s.mapLine fun l => l.endFrame x slots) hjoin lone
  have hown : (s.mapLine fun l => l.endFrame x slots).ownOutcome f (slotsSeen slots none)
      = (s.mapLine fun l => l.endFrame x slots).creditAccepted.accept .sender f := by
    rcases haccepted with ⟨hagree, hveto⟩ | ⟨rfl, hlone⟩
    · rw [← howned false]
      simp [State.ownOutcome, slotsSeen, slotLevel, hagree, hveto]
    · have hnone : (s.mapLine fun l => l.endFrame x ⟨.recessive, .recessive, .recessive⟩).hasActivePeer = false :=
        Bool.eq_false_iff.2 fun h =>
          let ⟨n, hn, hactive⟩ := (hasActivePeer_iff _).1 h
          hlone n hn hactive
      rw [← howned true]
      simp [State.ownOutcome, slotsSeen, slotLevel, hnone]
  rw [hown]
  rfl

/-- Settles O51: the generic acceptance, with points, outbox and walks by the kind of the bulletin and by whether it
removes. -/
theorem acceptedOwnBulletinIsAppliedAndLeavesTheOutbox : Obligations.AcceptedOwnBulletinIsAppliedAndLeavesTheOutbox := by
  refine ⟨fun o older newer x hentries holder => ⟨depart_of_not_owed hentries holder, fun p hp howed => ?_⟩,
    fun s f slots hsent hactive hjoin hown haccepted => ?_⟩
  · subst hp
    exact ⟨{ entries := older ++ newer, owed := update o.owed p fun _ => false }, rfl, fun q => update_get _ _ _ _,
      depart_of_owed hentries holder howed⟩
  intro act
  obtain ⟨l, hframe, hframed, hgap, hstrikes, hexec⟩ := exec_ownAccepted hsent hjoin haccepted
  set v := s.credited l with hv
  have houter : s.sameOutside (v.accept .sender f) := State.accept_sameOutside v .sender f
  have hall : Accepted v .sender f (v.accept .sender f) := accepted_accept (by exact hown)
  have hquiet : (v.presenceEffects .sender f).presence.quiet = 0 :=
    State.presenceOnly_quiet (v.presenceEffects_presenceOnly .sender f)
  have hkept (h : s.annList.records.length ≤ act.2.length) : v.accept .sender f = v.acceptedBeforeOffers .sender f :=
    accept_of_kept (by exact hown) (not_lt.2 h)
  have hremoval (h : act.2.length < s.annList.records.length) :=
    accept_removal (s := v) (how := .sender) (by exact hown) hactive h
  have hplain (hloss : ∀ n, f.body ≠ .loss n) (hroll : ∀ r, f.body ≠ .transferRoll r) :=
    beforeOffers_plain (s := v) (how := .sender) hjoin hloss hroll
  have hpeersPlain (hloss : ∀ n, f.body ≠ .loss n) (hroll : ∀ r, f.body ≠ .transferRoll r) (hsender : f.sender = s.own) :
      (v.accept .sender f).presence.peers = s.presence.peers := by
    rw [hall.presence, presenceEffects_plain hjoin hloss hroll, noteSender_own (by exact hsender)]
    rfl
  refine ⟨_, hexec, hall.station.trans hactive, hall.lineCount, (congrArg Presence.quiet hall.presence).trans hquiet,
    (congrArg Line.frame hall.line).trans hframe, (congrArg Line.framed hall.line).trans hframed,
    (congrArg Line.gap hall.line).trans hgap, (congrArg Line.strikes hall.line).trans hstrikes, hall.records,
    hall.overflow, hall.counters, hall.stateChanged, State.sameOutside_trans houter (judgeFault_sameOutside _ _),
    fun n hn => ?_, fun h q hraise => ?_, fun p g hbody => ⟨fun h => ?_, fun h => ?_⟩, fun h hloss hroll => ⟨?_, ?_⟩,
    fun h => ⟨(hremoval h).1, ?_, fun hsender => ?_⟩, fun hloss hroll => ?_, fun n hbody => ⟨?_, ?_, fun hsender => ?_⟩,
    fun r hbody => ⟨fun hlast => ?_, fun hlast => ?_⟩⟩
  · change (v.accept .sender f).presence.peers[n] = _
    rw [hall.presence]
    exact v.presenceEffects_of_peer .sender f (.inl hjoin) n hn
  · change (v.accept .sender f).points[q] = _
    rw [hkept h, State.acceptedBeforeOffers_points]
    unfold State.reportRaise
    split
    · next p g _ hbody =>
      have hne : q ≠ p := fun hq => hraise g (by rw [hq]; exact hbody)
      exact (update_get _ _ _ _).trans (if_neg hne)
    · rfl
  · have hpoint : (v.accept .sender f).points[p] = (s.points[p]).report act.1 := by
      rw [hkept (not_lt.1 (raise_kept (s := v) (how := .sender) hbody)), beforeOffers_points_of_raise hbody]
      exact (update_get _ _ _ _).trans (if_pos rfl)
    change ((v.accept .sender f).points[p]).caught = false ∧ ((v.accept .sender f).points[p]).waiting = false
    rw [hpoint, h]
    exact ⟨rfl, rfl⟩
  · have hpoint : (v.accept .sender f).points[p] = (s.points[p]).report act.1 := by
      rw [hkept (not_lt.1 (raise_kept (s := v) (how := .sender) hbody)), beforeOffers_points_of_raise hbody]
      exact (update_get _ _ _ _).trans (if_pos rfl)
    change ((v.accept .sender f).points[p]).caught = _ ∧ ((v.accept .sender f).points[p]).waiting = true
    rw [hpoint, h]
    exact ⟨rfl, rfl⟩
  · change (v.accept .sender f).outbox = _
    rw [hkept h, (hplain hloss hroll).1]
    rfl
  · exact hpeersPlain hloss hroll
  · have hloss (n) (hbody : f.body = .loss n) := loss_kept (s := v) (how := .sender) hbody h
    have hroll (r) (hbody : f.body = .transferRoll r) := roll_kept (s := v) (how := .sender) hbody h
    have houtbox := (hremoval h).2
    rw [(hplain hloss hroll).1] at houtbox
    exact houtbox
  · exact hpeersPlain (fun n hbody => loss_kept (s := v) (how := .sender) hbody h)
      (fun r hbody => roll_kept (s := v) (how := .sender) hbody h) hsender
  · exact (hall.walks.trans (hplain hloss hroll).2).trans repairedWalks_eq
  · exact hall.walks.trans (beforeOffers_loss hbody).2
  · change (v.accept .sender f).outbox = _
    rw [hkept (not_lt.1 (loss_kept (s := v) (how := .sender) hbody)), (beforeOffers_loss hbody).1]
    exact filter_two_withdrawn _ _ _
  · have hn : n ≠ s.own := fun h => hown (h ▸ hbody)
    obtain ⟨hsilent, hdiscord⟩ := presenceEffects_loss (s := v) (how := .sender) hbody hn
    have hpeers : (v.accept .sender f).presence = ((v.noteSender f.sender).markLost (v.peerState n) n).presence := by
      rw [hall.presence, State.presenceEffects, hbody]
    refine ⟨fun h => ?_, fun h => ?_, fun m hm => ?_⟩
    · exact (congrArg (fun q : Presence => (q.peers[n]).state) hall.presence).trans (hsilent h)
    · exact (congrArg (fun q : Presence => (q.peers[n]).state) hall.presence).trans (hdiscord h)
    · change (v.accept .sender f).presence.peers[m] = _
      rw [hpeers, markLost_get_of_ne _ hm, noteSender_own (by exact hsender)]
      rfl
  · obtain ⟨houtbox, hwalks⟩ := beforeOffers_ownRoll (s := v) hbody hactive
    rw [advanceWalks_last hlast] at hwalks
    rw [if_pos hlast] at houtbox
    refine ⟨hall.walks.trans hwalks, ?_⟩
    change (v.accept .sender f).outbox = _
    rw [hkept (not_lt.1 (roll_kept (s := v) (how := .sender) hbody)), houtbox]
    rfl
  · obtain ⟨houtbox, hwalks⟩ := beforeOffers_ownRoll (s := v) hbody hactive
    rw [advanceWalks_next hlast] at hwalks
    rw [if_neg (by rw [hlast]; nofun)] at houtbox
    refine ⟨hall.walks.trans hwalks, ?_⟩
    change (v.accept .sender f).outbox = _
    rw [hkept (not_lt.1 (roll_kept (s := v) (how := .sender) hbody)), houtbox]
    rfl

end Own

end Sys2Proof.Machine

namespace Sys2Proof.Machine

set_option Elab.async false

/-! A bulletin accepted by an ACTIVE receiver (R90, R94). -/

section Agreed

variable {s : State} {f : Frame}

/-- A bulletin that an ACTIVE receiver agreed to is accepted with the station outside the frame (R90). -/
theorem exec_agreed {slots : Slots} (h : s.hasHeard f (some .agree)) (hactive : s.station = .active)
    (hveto : slots.veto = .recessive) (hsender : f.sender ≠ s.own) :
    ∃ l, s.line.leftFrame l ∧ exec (.receivedFrameOutcome slots) s
      = .next (judgeFault s ((s.mapLine fun _ => l).accept .agreed f)) := by
  obtain ⟨l, hleft, hexec⟩ := exec_receivedFrameOutcome_of_peer h hsender slots
  have haccepted := slotsSeen_accepted (d := some .agree) hveto nofun (.inr rfl)
  have haccept : (s.mapLine fun _ => l).receiverOutcome (.wellFormed f) (some .agree) (slotsSeen slots (some .agree))
      = (s.mapLine fun _ => l).accept .agreed f := by
    rw [receiverOutcome_active (by exact hactive)]
    exact if_pos haccepted
  rw [haccept] at hexec
  exact ⟨l, hleft, hexec⟩

/-- Only the sender's entry is noted at a plain bulletin, and it becomes ACTIVE from ABSENT or JOINING (R124). -/
theorem presenceEffects_plain_peers {how : Acceptance} (hjoin : f.isJoin = false) (hloss : ∀ n, f.body ≠ .loss n)
    (hroll : ∀ r, f.body ≠ .transferRoll r) (hsender : f.sender ≠ s.own) :
    (∀ n, n ≠ f.sender → (s.presenceEffects how f).presence.peers[n] = s.presence.peers[n])
    ∧ (s.presenceEffects how f).peerState f.sender = notedState (s.peerState f.sender) := by
  rw [presenceEffects_plain hjoin hloss hroll]
  exact ⟨fun n hn => noteSender_get_of_ne hn, noteSender_peerState_same hsender⟩

/-- A transfer roll clears its target's silence counter, and a last one makes the target ACTIVE but for DISCORD (R124). -/
theorem presenceEffects_roll {how : Acceptance} {r : Roll} (h : f.body = .transferRoll r) (hn : r.target ≠ s.own) :
    ((s.presenceEffects how f).presence.peers[r.target]).silence = 0
    ∧ (r.last = true → s.peerState r.target ≠ .discord → (s.presenceEffects how f).peerState r.target = .active) := by
  have heffects : s.presenceEffects how f = (s.noteSender f.sender).noteTarget r := by
    rw [State.presenceEffects, h]
  have hown : (s.noteSender f.sender).own = s.own :=
    own_congr (State.presenceOnly_settings (s.noteSender_presenceOnly f.sender))
  rw [heffects]
  refine ⟨?_, fun hlast hne => ?_⟩
  · unfold State.noteTarget
    rw [State.clearSilence_get, if_pos rfl]
  · have hne' : (s.noteSender f.sender).peerState r.target ≠ .discord := by
      by_cases hsender : r.target = f.sender
      · rw [hsender] at hne hn ⊢
        rw [noteSender_peerState_same hn]
        revert hne
        cases s.peerState f.sender <;> simp [notedState]
      · have hget := noteSender_get_of_ne (s := s) hsender
        rw [State.peerState, hget]
        exact hne
    unfold State.noteTarget
    rw [State.clearSilence_peerState, if_pos (by rw [hlast, decide_eq_true hne']; rfl), State.setPeer_peerState,
      if_pos ⟨rfl, by rwa [hown]⟩]

/-- Settles O53: the generic acceptance at an agreed bulletin, by its kind and by whether it removes. -/
theorem agreedBulletinIsAppliedByAnActiveReceiver : Obligations.AgreedBulletinIsAppliedByAnActiveReceiver := by
  intro s f slots h hactive hveto hsender hjoin hown act
  obtain ⟨l, hleft, hexec⟩ := exec_agreed h hactive hveto hsender
  set v := s.mapLine fun _ => l with hv
  have houter : s.sameOutside (v.accept .agreed f) :=
    State.sameOutside_trans (t := v) (s.mapLine_sameOutside _) (v.accept_sameOutside .agreed f)
  have hall : Accepted v .agreed f (v.accept .agreed f) := accepted_accept (by exact hown)
  have hkept (h : s.annList.records.length ≤ act.2.length) : v.accept .agreed f = v.acceptedBeforeOffers .agreed f :=
    accept_of_kept (by exact hown) (not_lt.2 h)
  have hremoval (h : act.2.length < s.annList.records.length) :=
    accept_removal (s := v) (how := .agreed) (by exact hown) hactive h
  have hbefore : (v.acceptedBeforeOffers .agreed f).points = s.points := beforeOffers_points_of_ne (.inl (by decide))
  have hplain (hloss : ∀ n, f.body ≠ .loss n) (hroll : ∀ r, f.body ≠ .transferRoll r) :=
    beforeOffers_plain (s := v) (how := .agreed) hjoin hloss hroll
  have hlossOf (h : act.2.length < s.annList.records.length) (n : StationNo) (hbody : f.body = .loss n) : False :=
    loss_kept (s := v) (how := .agreed) hbody h
  have hrollOf (h : act.2.length < s.annList.records.length) (r : Roll) (hbody : f.body = .transferRoll r) : False :=
    roll_kept (s := v) (how := .agreed) hbody h
  have hpeers (hloss : ∀ n, f.body ≠ .loss n) (hroll : ∀ r, f.body ≠ .transferRoll r) :
      (∀ n, n ≠ f.sender → (v.accept .agreed f).presence.peers[n] = s.presence.peers[n])
      ∧ (v.accept .agreed f).peerState f.sender = notedState (s.peerState f.sender) := by
    have hplainPeers := presenceEffects_plain_peers (s := v) (how := .agreed) hjoin hloss hroll hsender
    exact ⟨fun n hn => (congrArg (fun q : Presence => q.peers[n]) hall.presence).trans (hplainPeers.1 n hn),
      (congrArg (fun q : Presence => (q.peers[f.sender]).state) hall.presence).trans hplainPeers.2⟩
  have hquiet : (v.presenceEffects .agreed f).presence.quiet = s.presence.quiet :=
    State.presenceOnly_quiet (s := v) (v.presenceEffects_presenceOnly .agreed f)
  have hne : Acceptance.agreed ≠ .sender := by decide
  refine ⟨_, hexec, hall.station.trans hactive, hall.lineCount, ?_, State.sameOutside_trans houter (judgeFault_sameOutside _ _),
    (congrArg Presence.quiet hall.presence).trans hquiet,
    fun n hn => ?_, hall.stateChanged, hall.counters, hall.records, hall.overflow, fun p => ?_, fun h => ⟨?_, fun hloss hroll =>
      ⟨?_, hpeers hloss hroll⟩⟩, fun h => ⟨(hremoval h).1, ?_, hpeers (hlossOf h) (hrollOf h)⟩, fun hloss hroll => ?_,
    fun n hbody => ⟨?_, ?_, ?_⟩, fun r hbody => ⟨?_, ?_, fun htarget => ?_⟩⟩
  · have hline : (v.accept .agreed f).line = l := hall.line
    obtain ⟨hframe, hframed, hgap, hstrikes⟩ := hleft
    exact ⟨(congrArg Line.frame hline).trans hframe, (congrArg Line.framed hline).trans hframed,
      (congrArg Line.gap hline).trans hgap, (congrArg Line.strikes hline).trans hstrikes⟩
  · change (v.accept .agreed f).presence.peers[n] = _
    rw [hall.presence]
    exact v.presenceEffects_of_peer .agreed f (.inl hjoin) n hn
  · change ((v.accept .agreed f).points[p]).caught = _ ∧ ((v.accept .agreed f).points[p]).abnormal = _
    rcases Nat.lt_or_ge act.2.length s.annList.records.length with hremoved | hstays
    · rw [(hremoval hremoved).1 p]
      exact ⟨rfl, rfl⟩
    · rw [hkept hstays, hbefore]
      exact ⟨rfl, rfl⟩
  · change (v.accept .agreed f).points = _
    rw [hkept h, hbefore]
  · change (v.accept .agreed f).outbox = _
    rw [hkept h, (hplain hloss hroll).1]
    rfl
  · have houtbox := (hremoval h).2
    rw [(hplain (hlossOf h) (hrollOf h)).1] at houtbox
    exact houtbox
  · exact (hall.walks.trans (hplain hloss hroll).2).trans repairedWalks_eq
  · exact hall.walks.trans (beforeOffers_loss hbody).2
  · change (v.accept .agreed f).outbox.entries = _
    rw [hkept (not_lt.1 (loss_kept (s := v) (how := .agreed) hbody)), (beforeOffers_loss hbody).1, filter_two_withdrawn]
    exact List.filter_congr fun e _ => Bool.and_comm _ _
  · have hn : n ≠ s.own := fun h => hown (h ▸ hbody)
    obtain ⟨hsilent, hdiscord⟩ := presenceEffects_loss (s := v) (how := .agreed) hbody hn
    have hstate := congrArg (fun q : Presence => (q.peers[n]).state) hall.presence
    exact ⟨fun h => hstate.trans (hsilent h), fun h => hstate.trans (hdiscord h)⟩
  · exact hall.walks.trans (beforeOffers_roll hbody hne).2
  · change (v.accept .agreed f).outbox.entries = _
    rw [hkept (not_lt.1 (roll_kept (s := v) (how := .agreed) hbody)), (beforeOffers_roll hbody hne).1]
    exact withdraw_entries _ _
  · obtain ⟨hsilence, hlast⟩ := presenceEffects_roll (s := v) (how := .agreed) hbody htarget
    have hpeer := congrArg (fun q : Presence => q.peers[r.target]) hall.presence
    exact ⟨(congrArg Peer.silence hpeer).trans hsilence, fun h h' => (congrArg Peer.state hpeer).trans (hlast h h')⟩

end Agreed

/-! An accepted JOIN (R94, R106). -/

section Join

variable {s : State} {f : Frame} {how : Acceptance}

/-- A JOIN drops the earlier walk for the joiner and withdraws what is pending for it (R55, R106, R118). -/
theorem walkEffects_join {reason : Reason} {d : Half} (h : f.body = .join reason d) : s.walkEffects how f
    = { s with
        annList := { s.annList with walks := s.annList.walks.filter fun w => w.target != f.sender }
        outbox := { s.outbox with
          entries := s.outbox.entries.filter fun e => e != ⟨.transferRoll f.sender, false⟩ && e != ⟨.loss f.sender, false⟩ } } := by
  have heffects : s.walkEffects how f = (s.discardWalk f.sender).mapOutbox fun o => o.withdraw (.loss f.sender) := by
    rw [State.walkEffects, h]
  rw [heffects, ← filter_two_withdrawn]
  rfl

/-- What an accepted JOIN leaves of outbox and walks before the offers, where it was agreed and where it was stepped. -/
theorem beforeOffers_join {reason : Reason} {d : Half} (h : f.body = .join reason d) (hactive : s.station = .active)
    (hfree : s.outbox.inFlight = []) :
    let kept := (s.repairedWalks how f).filter fun w => w.target != f.sender
    let waiting := s.outbox.entries.filter fun e => e != ⟨.transferRoll f.sender, false⟩ && e != ⟨.loss f.sender, false⟩
    (how = .agreed →
      (s.acceptedBeforeOffers how f).outbox = { s.outbox with entries := waiting ++ [⟨.transferRoll f.sender, false⟩] }
      ∧ (s.acceptedBeforeOffers how f).annList.walks = kept ++ [{ target := f.sender, cursor := none }])
    ∧ (how = .steppedJoin →
      (s.acceptedBeforeOffers how f).outbox = { s.outbox with entries := waiting }
      ∧ (s.acceptedBeforeOffers how f).annList.walks = kept) := by
  intro kept waiting
  have hstation := beforeWalks_station (s := s) (how := how) (f := f)
  have houtbox := beforeWalks_outbox (s := s) (how := how) (f := f)
  have hwalks := beforeWalks_walks (s := s) (how := how) (f := f)
  rw [beforeOffers_eq, walkEffects_join h, houtbox, hwalks]
  refine ⟨fun hhow => ?_, fun hhow => ?_⟩
  · subst hhow
    have hoffers (v : State) : v.walkOffers .agreed f
        = (v.putWalks (v.annList.walks ++ [{ target := f.sender, cursor := none }])).offer fun o =>
            o.transferRollOffer f.sender := by
      unfold State.walkOffers
      rw [h]
    have hoffer : Outbox.transferRollOffer { s.outbox with entries := waiting } f.sender
        = { s.outbox with entries := waiting ++ [⟨.transferRoll f.sender, false⟩] } := by
      have hnone : Outbox.has { s.outbox with entries := waiting } (.transferRoll f.sender) = false := by
        refine List.any_eq_false.2 fun e he hsame => ?_
        have hsubject : e.subject = .transferRoll f.sender := by simpa using hsame
        obtain ⟨hmem, hkeep⟩ := List.mem_filter.1 he
        have hpending : e.inFlight = false := by simpa using List.filter_eq_nil_iff.1 hfree e hmem
        have heq : e = ⟨.transferRoll f.sender, false⟩ := by
          rcases e with ⟨x, b⟩
          exact congrArg₂ Entry.mk hsubject hpending
        simp [heq] at hkeep
      have hno : (Outbox.withdraw { s.outbox with entries := waiting } (.loss f.sender)).entries = waiting := by
        rw [withdraw_entries, List.filter_eq_self]
        intro e he
        exact (Bool.and_eq_true _ _ ▸ (List.mem_filter.1 he).2 : _ ∧ _).2
      have happend : Outbox.transferRollOffer { s.outbox with entries := waiting } f.sender
          = (Outbox.withdraw { s.outbox with entries := waiting } (.loss f.sender)).append (.transferRoll f.sender) :=
        if_neg (by rw [hnone]; nofun)
      rw [happend, Outbox.append, hno]
      rfl
    rw [hoffers, offer_outbox]
    exact ⟨(if_pos (hstation.trans hactive)).trans hoffer, rfl⟩
  · subst hhow
    have hoffers (v : State) : v.walkOffers .steppedJoin f = v := by
      unfold State.walkOffers
      rw [h]
    rw [hoffers]
    exact ⟨rfl, rfl⟩

/-- Repair keeps the target of a walk, so that discarding and repairing commute. -/
theorem filter_repairedWalks (n : StationNo) : (s.repairedWalks how f).filter (fun w => w.target != n)
    = (s.annList.walks.filter fun w => w.target != n).map fun w =>
        if (s.alarmOf how f).2.length < s.annList.records.length then
          { w with cursor := repairCursor s.annList.records (s.alarmOf how f).2 w.cursor }
        else w := by
  rw [repairedWalks_eq]
  split
  · rw [List.filter_map]
    rfl
  · rw [List.map_id'']
    intro w
    rfl

/-- A JOIN's answer is no RAISE's. -/
theorem join_notRaise {reason : Reason} {d : Half} (h : f.body = .join reason d) : (s.alarmOf how f).1 = .notRaise := by
  rw [State.alarmOf, alarmSequence, h]

/-- A JOIN accepted by an ACTIVE receiver, agreed or stepped (R90, R94). -/
theorem exec_join {slots : Slots} {slot : Slot} {reason : Reason} {d : Half} (h : s.hasHeard f (some slot))
    (hactive : s.station = .active) (hbody : f.body = .join reason d) (hsender : f.sender ≠ s.own)
    (hveto : slots.veto = .recessive) (hslot : slot = .agree ∨ (slot = .step ∧ slots.agree = .dominant)) :
    ∃ l, s.line.leftFrame l ∧ exec (.receivedFrameOutcome slots) s
      = .next (judgeFault s ((s.mapLine fun _ => l).accept (if slot = .agree then .agreed else .steppedJoin) f)) := by
  rcases hslot with rfl | ⟨rfl, hagree⟩
  · exact exec_agreed h hactive hveto hsender
  · obtain ⟨l, hleft, hexec⟩ := exec_receivedFrameOutcome_of_peer h hsender slots
    have hjoin : f.isJoin = true := by rw [Frame.isJoin, hbody]
    have haccept : (s.mapLine fun _ => l).receiverOutcome (.wellFormed f) (some .step) (slotsSeen slots (some .step))
        = (s.mapLine fun _ => l).accept .steppedJoin f := by
      rw [receiverOutcome_active (by exact hactive)]
      simp [State.activeOutcome, hjoin, slotsSeen, slotLevel, hveto, hagree]
    rw [haccept] at hexec
    exact ⟨l, hleft, hexec⟩

/-- Settles O54: the generic acceptance at a JOIN, agreed or stepped, by whether it removes the loss record. -/
theorem acceptedJoinBeginsAWalkWhereItWasAgreed : Obligations.AcceptedJoinBeginsAWalkWhereItWasAgreed := by
  intro s f slots reason d slot h hactive hbody hsender hveto hslot hfree rs removed kept waiting
  obtain ⟨l, hleft, hexec⟩ := exec_join h hactive hbody hsender hveto hslot
  have hslots : slot = .agree ∨ slot = .step := hslot.imp_right And.left
  generalize hhow : (if slot = .agree then Acceptance.agreed else .steppedJoin) = how at hexec
  have hfilling : decide (how = .filling) = false := by
    rcases hslots with rfl | rfl <;> subst hhow <;> rfl
  set v := s.mapLine fun _ => l with hv
  have hown : f.body ≠ .loss v.own := by rw [hbody]; nofun
  have hall : Accepted v how f (v.accept how f) := accepted_accept hown
  have halarm : v.alarmOf how f = alarmSequence s.options s.inUse.lossGroup false f s.annList.records := by
    rw [State.alarmOf, hfilling]
    rfl
  have hremoved : v.removedBy how f ↔ removed := by
    rw [State.removedBy, halarm]
    exact Iff.rfl
  have hkept (h : ¬removed) : v.accept how f = v.acceptedBeforeOffers how f :=
    accept_of_kept hown fun hr => h (hremoved.1 hr)
  have hremoval (h : removed) := accept_removal (s := v) (how := how) hown hactive (hremoved.2 h)
  have hpoints : (v.acceptedBeforeOffers how f).points = s.points :=
    beforeOffers_points_of_ne (.inr fun p g => by rw [hbody]; nofun)
  obtain ⟨hagreed, hstepped⟩ := beforeOffers_join (s := v) (how := how) hbody hactive hfree
  have hwalksKept : (v.repairedWalks how f).filter (fun w => w.target != f.sender) = kept := by
    rw [filter_repairedWalks, halarm]
    rfl
  have houtboxOf (o : Outbox) (ho : (v.acceptedBeforeOffers how f).outbox = o) :
      (v.accept how f).outbox = if removed then s.removalOffers (v.accept how f) o else o := by
    by_cases hr : removed
    · rw [(hremoval hr).2, ho, if_pos hr]
      rfl
    · rw [hkept hr, ho, if_neg hr]
  have hnote (x : PeerState) (hx : v.presenceEffects how f = v.setPeer f.sender x) :
      (v.accept how f).peerState f.sender = x := by
    rw [State.peerState, hall.presence, hx]
    exact (State.setPeer_peerState v f.sender f.sender x).trans (if_pos ⟨rfl, hsender⟩)
  have hothers (n : StationNo) (hn : n ≠ f.sender) : (v.accept how f).presence.peers[n] = s.presence.peers[n] := by
    have heffects : ∃ x, v.presenceEffects how f = v.setPeer f.sender x := by
      rcases hslots with rfl | rfl <;> subst hhow <;> rw [State.presenceEffects, hbody] <;> exact ⟨_, rfl⟩
    obtain ⟨x, hx⟩ := heffects
    rw [hall.presence, hx]
    exact (State.setPeer_get v f.sender n x).trans (if_neg fun h => hn h.1)
  have hcounters : (v.accept how f).port.counters = s.port.counters := by
    rw [hall.counters, join_notRaise hbody]
    rfl
  have hoverflow : (v.accept how f).annList.overflow = if removed then false else s.annList.overflow := by
    rw [hall.overflow, join_notRaise hbody, halarm]
    rfl
  have hline : (v.accept how f).line = l := hall.line
  obtain ⟨hframe, hframed, hgap, hstrikes⟩ := hleft
  refine ⟨_, hexec, hall.station.trans hactive, hall.lineCount, hall.records.trans (congrArg Prod.snd halarm),
    ⟨(congrArg Line.frame hline).trans hframe, (congrArg Line.framed hline).trans hframed,
      (congrArg Line.gap hline).trans hgap, (congrArg Line.strikes hline).trans hstrikes⟩, ?_, hcounters,
    fun h => ⟨hoverflow.trans (if_pos h), (hremoval h).1⟩, fun h => ⟨hoverflow.trans (if_neg h), ?_⟩, hothers,
    fun hslot => ?_, fun hslot => ?_⟩
  · exact State.sameOutside_trans (State.sameOutside_trans (t := v) (s.mapLine_sameOutside _)
      (v.accept_sameOutside how f)) (judgeFault_sameOutside _ _)
  · change (v.accept how f).points = _
    rw [hkept h, hpoints]
  · subst hslot
    subst hhow
    obtain ⟨houtbox, hwalks⟩ := hagreed rfl
    refine ⟨hnote .joining (by rw [State.presenceEffects, hbody]; rfl), ?_, houtboxOf _ houtbox⟩
    rw [hwalksKept] at hwalks
    exact hall.walks.trans hwalks
  · subst hslot
    subst hhow
    obtain ⟨houtbox, hwalks⟩ := hstepped rfl
    refine ⟨hnote .discord (by rw [State.presenceEffects, hbody]; rfl), ?_, houtboxOf _ houtbox⟩
    rw [hwalksKept] at hwalks
    exact hall.walks.trans hwalks

end Join

end Sys2Proof.Machine

namespace Sys2Proof.Machine

set_option Elab.async false

/-! Acceptance without a vote (R91, R92, R110 to R114). -/

section Seen

variable {slots : Slots}

theorem slotsSeen_accepted_iff {drive : Option Slot} : (slotsSeen slots drive).accepted = true
    ↔ (slots.agree = .dominant ∨ drive = some .agree) ∧ slots.veto = .recessive ∧ drive ≠ some .veto := by
  refine ⟨fun h => ?_, fun ⟨hagree, hveto, hdrive⟩ => slotsSeen_accepted hveto hdrive hagree⟩
  obtain ⟨veto, agree, step⟩ := slots
  by_cases hveto : drive = some .veto
  · simp [Seen.accepted, slotsSeen, slotLevel, hveto] at h
  by_cases hagree : drive = some .agree
  · subst hagree
    cases veto <;> simp_all [Seen.accepted, slotsSeen, slotLevel]
  · cases veto <;> cases agree <;> simp_all [Seen.accepted, slotsSeen, slotLevel]

/-- What a station that drives no slot and sees no VETO can take: an accepted frame, or one with no slot seen (R92). -/
theorem slotsSeen_taken_iff (hveto : slots.veto = .recessive) :
    ((slotsSeen slots none).accepted || (slotsSeen slots none).silent) = true
      ↔ slots.agree = .dominant ∨ slots.step = .recessive := by
  obtain ⟨veto, agree, step⟩ := slots
  obtain rfl : veto = .recessive := hveto
  cases agree <;> cases step <;> decide

end Seen

section Passive

variable {s : State} {f : Frame} {how : Acceptance}

theorem inStep_iff : s.inStep f = true ↔ f.isJoin = true ∨ f.count = s.lineCount := by simp [State.inStep]

/-- A MUTED or filling station that the bulletin does not take into JOINING accepts it without an offer (R45, R132). -/
theorem accept_passive (hstation : s.station ≠ .active) (hown : how = .filling ∨ f.body ≠ .loss s.own) :
    s.accept how f = s.acceptedBeforeOffers how f := by
  by_cases hne : f.body ≠ .loss s.own
  · exact accept_of_not_active hne hstation
  · obtain rfl : how = .filling := hown.resolve_right hne
    have hbody := not_not.1 hne
    have hno : removes s.annList.records (s.alarmOf .filling f).2 = false := loss_not_removes hbody
    unfold State.accept
    unfold State.alarmOf at hno
    dsimp only
    rw [hno]
    rfl

theorem withdraw_of_empty {o : Outbox} (h : o.entries = []) (x : Subject) : (o.withdraw x).entries = [] := by
  rw [withdraw_entries, h]
  rfl

/-- A bulletin accepted without a vote only withdraws from the outbox (R55). -/
theorem beforeOffers_outbox_passive (hhow : how = .muted ∨ how = .filling) :
    (s.outbox.entries = [] → (s.acceptedBeforeOffers how f).outbox.entries = [])
    ∧ (s.acceptedBeforeOffers how f).outbox.owed = s.outbox.owed := by
  have hoffers (v : State) : v.walkOffers how f = v := by
    unfold State.walkOffers
    rcases hhow with rfl | rfl <;> cases f.body <;> rfl
  have hsender : how ≠ .sender := by rcases hhow with rfl | rfl <;> decide
  rw [beforeOffers_eq, hoffers, ← beforeWalks_outbox (s := s) (how := how) (f := f)]
  generalize s.beforeWalks how f = v
  unfold State.walkEffects
  split
  · exact ⟨fun h => withdraw_of_empty (withdraw_of_empty h _) _, rfl⟩
  · exact ⟨fun h => withdraw_of_empty (withdraw_of_empty h _) _, rfl⟩
  · rw [if_neg hsender]
    exact ⟨fun h => withdraw_of_empty h _, rfl⟩
  · exact ⟨id, rfl⟩

/-- A filling joiner refuses nothing (R114). -/
theorem filling_not_refused : (s.alarmOf .filling f).1 ≠ .refused := by
  have hraise (p : PointId) (g : Group) :
      (raiseRecords s.options (decide (Acceptance.filling = .filling)) p g s.annList.records).1 ≠ .refused := by
    unfold raiseRecords
    split
    · nofun
    · rw [if_pos (by rfl)]
      nofun
  unfold State.alarmOf alarmSequence
  cases f.body <;> first | exact hraise _ _ | nofun

/-- What a bulletin accepted without a vote leaves of the station (R58, R91, R92, R114). -/
theorem passive_accepted {l : Line} (hleft : s.line.leftFrame l) (hhow : how = .muted ∨ how = .filling)
    (hstation : s.station ≠ .active) (hown : how = .filling ∨ f.body ≠ .loss s.own) :
    let t := judgeFault s ((s.mapLine fun _ => l).accept how f)
    Accepted (s.mapLine fun _ => l) how f t
    ∧ (∀ n : StationNo, n ≠ s.own → t.presence.peers[n] = f.peerAfter n (s.presence.peers[n]))
    ∧ t.presence.quiet = s.presence.quiet ∧ (s.outbox.entries = [] → t.outbox.entries = [])
    ∧ t.outbox.owed = s.outbox.owed ∧ t.points = s.points ∧ s.line.leftFrame t.line ∧ s.sameOutside t := by
  intro t
  set v := s.mapLine fun _ => l with hv
  have ht : t = v.acceptedBeforeOffers how f :=
    (judgeFault_of_not_active hstation _).trans (accept_passive (by exact hstation) hown)
  have hall : Accepted v how f t := ht ▸ accepted_beforeOffers v how f
  obtain ⟨hempty, howed⟩ := beforeOffers_outbox_passive (s := v) (f := f) hhow
  have hquiet : (v.presenceEffects how f).presence.quiet = s.presence.quiet :=
    State.presenceOnly_quiet (s := v) (v.presenceEffects_presenceOnly how f)
  have hsender : how ≠ .sender := by rcases hhow with rfl | rfl <;> decide
  refine ⟨hall, fun n hn => ?_, (congrArg Presence.quiet hall.presence).trans hquiet, ?_, ?_, ?_, ?_, ?_⟩
  · rw [hall.presence]
    exact v.presenceEffects_of_peer how f (.inr hhow) n hn
  · rw [ht]
    exact hempty
  · rw [ht]
    exact howed
  · rw [ht]
    exact beforeOffers_points_of_ne (.inl hsender)
  · rw [hall.line]
    exact hleft
  · exact State.sameOutside_trans (State.sameOutside_trans (t := v) (s.mapLine_sameOutside _)
      (v.accept_sameOutside how f)) (judgeFault_sameOutside _ _)

/-! Rolls taken (R110 to R113). -/

/-- What completing a transfer leaves beside list, presence table, points and outbox (R113). -/
theorem completeTransfer_frame (s : State) (b : Bool) :
    (s.completeTransfer b).lineCount = s.lineCount ∧ (s.completeTransfer b).line = s.line
    ∧ (s.completeTransfer b).port.counters = s.port.counters
    ∧ (s.completeTransfer b).port.latches.stateChanged = true := by
  unfold State.completeTransfer
  set a := (s.putList s.annList.records (b && decide (s.annList.records.length = Config.listCapacity))).enterActive with ha
  have hmarks := a.markFromLossRecords_presenceOnly
  have hpoints := a.markFromLossRecords.reconcile_pointsOnly
  have hport : a.markFromLossRecords.reconcile.port = a.markFromLossRecords.port := State.pointsOnly_port hpoints
  exact ⟨(State.pointsOnly_lineCount hpoints).trans (State.presenceOnly_lineCount (s := a) hmarks),
    (State.pointsOnly_line hpoints).trans (State.presenceOnly_line (s := a) hmarks),
    (congrArg Port.counters hport).trans (State.presenceOnly_port_counters (s := a) hmarks),
    (congrArg (fun p : Port => p.latches.stateChanged) hport).trans (State.presenceOnly_stateChanged hmarks)⟩

/-- What taking a roll leaves beside what `State.takesRoll` says. -/
theorem takeRoll_frame (s : State) (r : Roll) :
    (s.takeRoll r).lineCount = s.lineCount ∧ (s.takeRoll r).line = s.line
    ∧ (s.takeRoll r).port.counters = s.port.counters
    ∧ (s.port.latches.stateChanged = true → (s.takeRoll r).port.latches.stateChanged = true) := by
  unfold State.takeRoll
  split
  · exact ⟨rfl, rfl, rfl, fun _ => rfl⟩
  · next rs _ =>
    dsimp only
    split
    · obtain ⟨hcount, hline, hcounters, hlatch⟩ :=
        completeTransfer_frame ((s.putList rs s.annList.overflow).putStation (.joining (.filling 0))) r.overflow
      exact ⟨hcount, hline, hcounters, fun _ => hlatch⟩
    · exact ⟨rfl, rfl, rfl, id⟩

/-- At a roll for the station only the sender's entry is noted (R111, R112, R124). -/
theorem presenceEffects_ownRoll {r : Roll} (hbody : f.body = .transferRoll r) (htarget : r.target = s.own)
    (n : StationNo) (hn : n ≠ s.own) : (s.presenceEffects how f).peerState n
      = if n = f.sender then notedState (s.peerState n) else s.peerState n := by
  have htarget' : n ≠ r.target := htarget ▸ hn
  have hpeer := s.presenceEffects_of_peer how f (.inl (by rw [Frame.isJoin, hbody])) n hn
  have hstate := congrArg Peer.state hpeer
  have hafter : f.entryAfter n (s.peerState n) = if n = f.sender then notedState (s.peerState n) else s.peerState n := by
    simp [Frame.entryAfter, hbody, htarget']
  rw [← hafter]
  refine hstate.trans ?_
  unfold Frame.peerAfter
  split
  · rfl
  · next hsame =>
    rw [hbody]
    dsimp only
    rw [if_neg htarget']
    exact (not_not.1 hsame).symm

/-- What a joiner leaves that takes a roll, once the roll is counted and its sender noted (R110 to R113). -/
theorem takeRoll_noted {v : State} {l : Line} {c : Byte} {r : Roll} (hstation : s.station ≠ .active)
    (hbody : f.body = .transferRoll r) (htarget : r.target = s.own) (hleft : s.line.leftFrame l)
    (hv : ∃ x y, v = { State.presenceEffects { s with line := l, lineCount := c } .filling f with
      station := x, port := { (State.presenceEffects { s with line := l, lineCount := c } .filling f).port with latches := y } }) :
    let t := judgeFault s (v.takeRoll r)
    t.lineCount = c ∧ s.takesRoll t f.sender r ∧ t.port.counters = s.port.counters ∧ s.line.leftFrame t.line
    ∧ s.sameOutside t ∧ (v.port.latches.stateChanged = true → t.port.latches.stateChanged = true) := by
  intro t
  set w : State := { s with line := l, lineCount := c } with hw
  have honly := w.presenceEffects_presenceOnly .filling f
  have hpeers := presenceEffects_ownRoll (s := w) (how := .filling) hbody (by exact htarget)
  have hout := w.presenceEffects_sameOutside .filling f
  generalize w.presenceEffects .filling f = p at *
  obtain ⟨x, y, rfl⟩ := hv
  obtain ⟨hcount, hline, hcounters, hlatch⟩ := takeRoll_frame
    { p with station := x, port := { p.port with latches := y } } r
  have ht : t = State.takeRoll { p with station := x, port := { p.port with latches := y } } r :=
    judgeFault_of_not_active hstation _
  have hsame : s.sameOutside { p with station := x, port := { p.port with latches := y } } := hout
  rw [ht]
  refine ⟨hcount.trans (State.presenceOnly_lineCount (s := w) (t := p) honly),
    State.takeRoll_takesRoll f.sender r (State.presenceOnly_annList (s := w) (t := p) honly)
      (State.presenceOnly_outbox (s := w) (t := p) honly) (State.presenceOnly_points (s := w) (t := p) honly)
      (State.presenceOnly_settings (s := w) (t := p) honly) (State.presenceOnly_quiet (s := w) (t := p) honly) hpeers,
    hcounters.trans (State.presenceOnly_port_counters (s := w) (t := p) honly), ?_,
    State.sameOutside_trans hsame (State.takeRoll_sameOutside _ _), hlatch⟩
  rw [hline]
  exact (State.presenceOnly_line (s := w) (t := p) honly).symm ▸ hleft

/-! The outcome of a frame at a MUTED, admitted or filling station. -/

theorem receiverOutcome_muted {k : Nat} (h : s.station = .muted k false) {heard : Heard} {drive : Option Slot} {seen : Seen}
    (haccepted : seen.accepted = true) : s.receiverOutcome heard drive seen = s.mutedOutcome k heard := by
  simp only [State.receiverOutcome, h, haccepted, if_true]

/-- A misread frame is acted on by a MUTED station in step alone (R91). -/
theorem receiverOutcome_formatError {drive : Option Slot} {seen : Seen}
    (h : (∀ k, s.station ≠ .muted k false) ∨ seen.accepted = false) :
    s.receiverOutcome .formatError drive seen = s := by
  unfold State.receiverOutcome
  split
  · next hheard => cases hheard
  · next k hmuted =>
    have hno : seen.accepted = false := h.resolve_left fun h => h k hmuted
    exact if_neg (by rw [hno]; nofun)
  · next hheard => cases hheard
  · next hheard => cases hheard
  · rfl

theorem receiverOutcome_admitted {k : Nat} (h : s.station = .joining (.admitted k)) (drive : Option Slot) (seen : Seen) :
    s.receiverOutcome (.wellFormed f) drive seen = s.admittedOutcome f seen := by
  simp only [State.receiverOutcome, h]

theorem receiverOutcome_filling {k : Nat} (h : s.station = .joining (.filling k)) (drive : Option Slot) (seen : Seen) :
    s.receiverOutcome (.wellFormed f) drive seen = s.fillingOutcome f seen := by
  simp only [State.receiverOutcome, h]

/-- A filling joiner applies a bulletin that is no roll for it as any other station would (R114). -/
theorem acceptFilling_other (h : ∀ r, f.body = .transferRoll r → r.target ≠ s.own) :
    s.acceptFilling f = s.accept .filling f := by
  unfold State.acceptFilling
  split
  · next r hbody => exact if_neg (h r hbody)
  · rfl

/-- Settles O57: by the station's state; a bulletin by the generic acceptance, a roll for the station by
`State.takeRoll_takesRoll`. -/
theorem mutedAndJoiningStationsAcceptPassively : Obligations.MutedAndJoiningStationsAcceptPassively := by
  refine ⟨fun s slots drive h => ?_, fun s f slots h hsender hveto => ?_⟩
  · intro accepted
    obtain ⟨x, hexec⟩ := exec_receivedFrameOutcome_misread h slots
    refine ⟨fun k hmuted haccepted => ?_, fun hno => ?_⟩
    · rw [receiverOutcome_muted (by exact hmuted) (slotsSeen_accepted_iff.2 haccepted),
        judgeFault_of_not_active (by rw [hmuted]; nofun)] at hexec
      exact ⟨_, hexec, endFrame_leftFrame _ _ _⟩
    · rw [receiverOutcome_formatError (s := s.mapLine fun l => l.endFrame x slots)
          (hno.imp id fun h => Bool.eq_false_iff.2 fun ha => h (slotsSeen_accepted_iff.1 ha)),
        judgeFault_id (s := s) (t := s.mapLine fun l => l.endFrame x slots) (faultOn_congr rfl rfl rfl rfl)] at hexec
      exact ⟨_, hexec, endFrame_leftFrame _ _ _⟩
  · intro inStep accepted taken
    obtain ⟨l, hleft, hexec⟩ := exec_receivedFrameOutcome_of_peer h hsender slots
    have haccepted (ha : accepted) : (slotsSeen slots none).accepted = true :=
      slotsSeen_accepted hveto nofun (.inl ha)
    have hnotAccepted (ha : ¬accepted) : (slotsSeen slots none).accepted = false :=
      Bool.eq_false_iff.2 fun h => ha ((slotsSeen_accepted_iff.1 h).1.resolve_right nofun)
    have htaken : ((slotsSeen slots none).accepted || (slotsSeen slots none).silent) = true ↔ taken :=
      slotsSeen_taken_iff hveto
    have hquiet (hstation : s.station ≠ .active)
        (hq : (s.mapLine fun _ => l).receiverOutcome (.wellFormed f) none (slotsSeen slots none) = s.mapLine fun _ => l) :
        ∃ l, exec (.receivedFrameOutcome slots) s = .next { s with line := l } ∧ s.line.leftFrame l := by
      rw [hq, judgeFault_of_not_active hstation] at hexec
      exact ⟨l, hexec, hleft⟩
    refine ⟨fun k hmuted ha => ?_, fun k hmuted => ?_, fun k hadmitted => ?_, fun k hfilling => ?_⟩
    · have hstation : s.station ≠ .active := by rw [hmuted]; nofun
      rw [receiverOutcome_muted (by exact hmuted) (haccepted ha)] at hexec
      refine ⟨fun hstep hown => ?_, fun hstep => ?_⟩
      · have haccept : (s.mapLine fun _ => l).mutedOutcome k (.wellFormed f) = (s.mapLine fun _ => l).accept .muted f :=
          if_pos (inStep_iff.2 hstep)
        rw [haccept] at hexec
        obtain ⟨hall, hpeers, hrest⟩ := passive_accepted hleft (.inl rfl) hstation (.inr hown)
        exact ⟨_, hexec, hall.station, hall.lineCount, hall.records, hall.overflow, hpeers, hall.counters, hrest⟩
      · have hlost : (s.mapLine fun _ => l).mutedOutcome k (.wellFormed f)
            = (s.mapLine fun _ => l).putStation (.muted k true) := if_neg fun h => hstep (inStep_iff.1 h)
        rw [hlost, judgeFault_of_not_active hstation] at hexec
        exact ⟨l, hexec, hleft⟩
    · exact hquiet (by rw [hmuted]; nofun) (by simp only [State.receiverOutcome, State.mapLine, hmuted])
    · have hstation : s.station ≠ .active := by rw [hadmitted]; nofun
      refine ⟨fun r hbody htarget ht => ?_, fun hnone => hquiet hstation ?_⟩
      · have htake : (s.mapLine fun _ => l).admittedOutcome f (slotsSeen slots none)
            = (s.mapLine fun _ => l).takeFirstRoll f r := by
          unfold State.admittedOutcome
          rw [hbody]
          exact if_pos (by rw [htaken.2 ht, decide_eq_true (show r.target = (s.mapLine fun _ => l).own from htarget)]; rfl)
        rw [receiverOutcome_admitted (by exact hadmitted), htake] at hexec
        obtain ⟨hcount, htakes, hcounters, hline, hout, hlatch⟩ :=
          takeRoll_noted (c := f.count + 1) hstation hbody htarget hleft ⟨_, _, rfl⟩
        exact ⟨_, hexec, hcount, htakes, hlatch rfl, hcounters, hline, hout⟩
      · rw [receiverOutcome_admitted (by exact hadmitted)]
        unfold State.admittedOutcome
        split
        · next r hbody => exact if_neg (by simp [show r.target ≠ (s.mapLine fun _ => l).own from hnone r hbody])
        · rfl
    · have hstation : s.station ≠ .active := by rw [hfilling]; nofun
      have hfill := receiverOutcome_filling (s := s.mapLine fun _ => l) (f := f) hfilling none (slotsSeen slots none)
      rw [hfill] at hexec hquiet
      have hin (hstep : inStep) (ht : taken) : (s.mapLine fun _ => l).fillingOutcome f (slotsSeen slots none)
          = (s.mapLine fun _ => l).acceptFilling f :=
        (if_pos (htaken.2 ht)).trans (if_pos (inStep_iff.2 hstep))
      refine ⟨fun hstep ha => ?_, fun hstep ha => hquiet hstation ?_, fun hstep ht hother => ?_,
        fun r hstep ht hbody htarget => ?_⟩
      · have hjoins : (s.mapLine fun _ => l).fillingOutcome f (slotsSeen slots none)
            = (s.mapLine fun _ => l).enterJoining .resync :=
          (if_pos (htaken.2 (.inl ha))).trans ((if_neg fun h => hstep (inStep_iff.1 h)).trans (if_pos (haccepted ha)))
        rw [hjoins] at hexec
        obtain ⟨hframe, hframed, hgap, hstrikes⟩ := hleft
        refine ⟨_, hexec, joinsWith_enterJoining (s := s) (u := s.mapLine fun _ => l) rfl hstrikes rfl
          (s.mapLine_sameOutside _) _, rfl, ?_⟩
        rw [← countUp_eq_counted]
        rfl
      · unfold State.fillingOutcome
        rw [if_neg (show ¬(s.mapLine fun _ => l).inStep f = true from fun h => hstep (inStep_iff.1 h)), hnotAccepted ha]
        exact ite_self _
      · rw [hin hstep ht, acceptFilling_other (s := s.mapLine fun _ => l) hother] at hexec
        obtain ⟨hall, hpeers, hsame, hempty, -, hrest⟩ := passive_accepted hleft (.inr rfl) hstation (.inl rfl)
        refine ⟨_, hexec, hall.station, hall.lineCount, hall.records,
          hall.overflow.trans (if_neg filling_not_refused), hpeers, hsame, hempty, hrest.1, ?_, hrest.2⟩
        rw [hall.counters, if_neg filling_not_refused]
        rfl
      · have htake : (s.mapLine fun _ => l).acceptFilling f
            = ((s.mapLine fun _ => l).countAccepted.presenceEffects .filling f).takeRoll r := by
          unfold State.acceptFilling
          rw [hbody]
          exact if_pos htarget
        rw [hin hstep ht, htake] at hexec
        obtain ⟨hcount, htakes, hcounters, hline, hout, -⟩ :=
          takeRoll_noted (c := s.lineCount + 1) hstation hbody htarget hleft ⟨_, _, rfl⟩
        exact ⟨_, hexec, hcount, htakes, hcounters, hline, hout⟩

end Passive

end Sys2Proof.Machine

namespace Sys2Proof.Machine

set_option Elab.async false

/-! A transfer walk and the joiner it fills (R107, R112, R114). -/

section Sent

variable {rs older newer : List Record} {c r : Record}

theorem sentPart_at (holder : ∀ x ∈ older, x.id ≠ c.id) :
    sentPart (older ++ c :: newer) (some c.id) = older ++ [c] := by
  have hold : ∀ x ∈ older, (x.id != c.id) = true := fun x hx => by simpa using holder x hx
  have hbefore : (older ++ c :: newer).takeWhile (fun x => x.id != c.id) = older := by
    rw [List.takeWhile_append_of_pos hold]
    simp
  have hcursor : (older ++ c :: newer).find? (fun x => x.id == c.id) = some c :=
    List.find?_eq_some_iff_append.2 ⟨by simp, older, newer, rfl, hold⟩
  rw [sentPart, hbefore, hcursor]
  rfl

theorem older_ne_of_nodup (h : ((older ++ c :: newer).map Record.id).Nodup) : ∀ x ∈ older, x.id ≠ c.id := fun x hx => by
  rw [List.map_append, List.nodup_append] at h
  exact h.2.2 x.id (List.mem_map_of_mem hx) c.id (by simp)

theorem holds_of_mem (h : r ∈ rs) : holds rs r.id = true := (holds_iff _ _).2 ⟨r, h, rfl⟩

theorem cursorLaw_some {p : PointId} (h : holds rs p = true) : CursorLaw rs (some p) := fun _ hp =>
  Option.some.inj hp ▸ h

/-- Settles O26: by the place of the cursor, before the head, before the last record, or at it. -/
theorem takingARollKeepsTheJoinerEqualToWhatWasSent : Obligations.TakingARollKeepsTheJoinerEqualToWhatWasSent := by
  intro n overflow rs cursor hnodup hlen hcursor
  obtain ⟨hempty, hhead, hnext, hlast⟩ := transferRollCarriesTheSuccessorOfTheCursor n overflow rs hnodup
  cases cursor with
  | none =>
    cases rs with
    | nil =>
      rw [hempty]
      exact ⟨rfl, nofun, fun _ => rfl⟩
    | cons head tail =>
      rw [hhead head tail rfl]
      have hsent : sentPart (head :: tail) (some head.id) = [head] := sentPart_at (older := []) nofun
      refine ⟨?_, cursorLaw_some (holds_of_mem (by simp)), fun hend => ?_⟩
      · exact (takeRecord_head (rs := []) rfl (by decide)).trans (congrArg some hsent.symm)
      · obtain rfl : tail = [] := List.isEmpty_iff.1 hend
        exact hsent
  | some p =>
    obtain ⟨older, c, newer, rfl, rfl, holder⟩ := holds_split (hcursor p rfl)
    cases newer with
    | nil =>
      rw [hlast older c rfl]
      exact ⟨rfl, hcursor, fun _ => sentPart_at holder⟩
    | cons x tail =>
      rw [hnext older c x tail rfl]
      have hsplit : older ++ c :: x :: tail = (older ++ [c]) ++ x :: tail := by simp
      have hnodup' := hsplit ▸ hnodup
      have hsent : sentPart (older ++ c :: x :: tail) (some x.id) = older ++ [c, x] := by
        rw [hsplit, sentPart_at (older_ne_of_nodup hnodup')]
        simp
      have hnew : holds (older ++ [c]) x.id = false :=
        Bool.eq_false_iff.2 fun h =>
          let ⟨y, hy, hid⟩ := (holds_iff _ _).1 h
          older_ne_of_nodup hnodup' y hy hid
      have hshort : (older ++ [c]).length < 64 := by
        simp only [List.length_append, List.length_cons, List.length_nil] at hlen ⊢
        omega
      have hkept : ((older ++ [c]).map Record.id).Nodup := by
        rw [List.map_append, List.nodup_append] at hnodup'
        exact hnodup'.1
      refine ⟨?_, cursorLaw_some (holds_of_mem (by simp)), fun hend => ?_⟩
      · rw [hsent, sentPart_at holder]
        exact takeRecord_after hkept hnew hshort
      · obtain rfl : tail = [] := List.isEmpty_iff.1 hend
        exact hsent

end Sent

/-! A bulletin at a sender's list and at the joiner that holds the part sent (R114). -/

/-- A map that leaves the records outside a condition as they are keeps their place where it does inside. -/
theorem keepsPlace_where {p : Record → Prop} [DecidablePred p] {g : Record → Option Record} (h : KeepsPlace g) :
    KeepsPlace fun r => if p r then g r else some r := by
  intro r r' hr
  dsimp only at hr
  split at hr
  · exact h r r' hr
  · obtain rfl := Option.some.inj hr
    exact ⟨rfl, rfl, rfl⟩

theorem keepsPlace_some : KeepsPlace some := fun r r' h => by
  obtain rfl := Option.some.inj h
  exact ⟨rfl, rfl, rfl⟩

/-- At a filling joiner a RAISE and a LOSS change the record of their point alone (R29). -/
def reAlarmAt (p : PointId) (r : Record) : Option Record := some (if r.id = p then reAlarm r else r)

theorem reAlarmAt_keepsPlace (p : PointId) : KeepsPlace (reAlarmAt p) := fun r r' h => by
  obtain rfl := Option.some.inj h
  split
  · exact ⟨reAlarm_id r, reAlarm_group r, reAlarm_firstOut r⟩
  · exact ⟨rfl, rfl, rfl⟩

theorem filterMap_reAlarmAt_of_not_held {rs : List Record} {p : PointId} (h : holds rs p = false) :
    rs.filterMap (reAlarmAt p) = rs := by
  have hne : ∀ r ∈ rs, r.id ≠ p := fun r hr hid => by
    rw [← hid, holds_of_mem hr] at h
    cases h
  rw [List.filterMap_congr fun r hr => show reAlarmAt p r = some r by rw [reAlarmAt, if_neg (hne r hr)],
    List.filterMap_some]

/-- What a bulletin makes of the records of a list, each by itself, and what it adds at the tail: the same records at a
filling joiner, where nothing is added (R19, R29, R114). -/
def ActsByRecord (options : Group → GroupOptions) (lossGroup : Group) (f : Frame) (g : Record → Option Record)
    (rs : List Record) : Prop :=
  (∀ sent, (alarmSequence options lossGroup true f sent).2 = sent.filterMap g)
  ∧ ∃ added, (alarmSequence options lossGroup false f rs).2 = rs.filterMap g ++ added
    ∧ ∀ x ∈ added, holds rs x.id = false

section Acts

variable {options : Group → GroupOptions} {lossGroup : Group} {f : Frame} {rs : List Record}

theorem actsByRecord_of_uniform {g : Record → Option Record}
    (h : ∀ filling rs, (alarmSequence options lossGroup filling f rs).2 = rs.filterMap g) :
    ActsByRecord options lossGroup f g rs :=
  ⟨h true, [], (h false rs).trans (List.append_nil _).symm, nofun⟩

theorem actsByRecord_of_raise {p : PointId} {a : Group}
    (h : ∀ filling rs, alarmSequence options lossGroup filling f rs = raiseRecords options filling p a rs) :
    ActsByRecord options lossGroup f (reAlarmAt p) rs := by
  have hheld {filling : Bool} {l : List Record} (hp : holds l p = true) :
      (raiseRecords options filling p a l).2 = l.filterMap (reAlarmAt p) := by
    rw [raiseRecords_held hp]
    exact (congrFun List.filterMap_eq_map l).symm
  refine ⟨fun sent => ?_, ?_⟩
  · rw [h]
    cases hp : holds sent p with
    | true => exact hheld hp
    | false => rw [raiseRecords_ignored ((findRecord_eq_none _ _).2 hp), filterMap_reAlarmAt_of_not_held hp]
  · rw [h]
    cases hp : holds rs p with
    | true => exact ⟨[], (hheld hp).trans (List.append_nil _).symm, nofun⟩
    | false =>
      have hnone := (findRecord_eq_none _ _).2 hp
      rw [filterMap_reAlarmAt_of_not_held hp]
      rcases Nat.lt_or_ge rs.length 64 with hlen | hlen
      · rw [raiseRecords_new hnone hlen]
        exact ⟨_, rfl, by simpa using hp⟩
      · rw [raiseRecords_refused hnone hlen]
        exact ⟨[], (List.append_nil _).symm, nofun⟩

/-- Every bulletin acts record by record, alike at the sender and at the joiner (R19, R114). -/
theorem exists_actsByRecord (options : Group → GroupOptions) (lossGroup : Group) (f : Frame) (rs : List Record) :
    ∃ g, KeepsPlace g ∧ ActsByRecord options lossGroup f g rs := by
  have hreturn (p : PointId) (h : ∀ filling rs, (alarmSequence options lossGroup filling f rs).2 = returnRecords options p rs) :
      ∃ g, KeepsPlace g ∧ ActsByRecord options lossGroup f g rs :=
    ⟨_, keepsPlace_where (p := fun r => r.id = p) (g := fun r => returnRecord (options r.group) r)
      (fun r r' => returnRecord_keepsPlace _ r r'), actsByRecord_of_uniform h⟩
  have hact (m : GroupMask) (k : Record → Option Record) (hk : KeepsPlace k)
      (h : ∀ filling rs, (alarmSequence options lossGroup filling f rs).2 = actOnGroups m k rs) :
      ∃ g, KeepsPlace g ∧ ActsByRecord options lossGroup f g rs :=
    ⟨_, keepsPlace_where (p := fun r => inMask m r.group = true) hk, actsByRecord_of_uniform h⟩
  have hnothing (h : ∀ filling rs, (alarmSequence options lossGroup filling f rs).2 = rs) :
      ∃ g, KeepsPlace g ∧ ActsByRecord options lossGroup f g rs :=
    ⟨some, keepsPlace_some, actsByRecord_of_uniform fun filling rs => (h filling rs).trans List.filterMap_some.symm⟩
  have hraise (p : PointId) (a : Group)
      (h : ∀ filling rs, alarmSequence options lossGroup filling f rs = raiseRecords options filling p a rs) :
      ∃ g, KeepsPlace g ∧ ActsByRecord options lossGroup f g rs :=
    ⟨_, reAlarmAt_keepsPlace p, actsByRecord_of_raise h⟩
  cases hbody : f.body with
  | raise p a => exact hraise _ a fun filling l => by rw [alarmSequence, hbody]
  | loss n => exact hraise _ lossGroup fun filling l => by rw [alarmSequence, hbody]
  | ret p d => exact hreturn _ fun filling l => by rw [alarmSequence, hbody]
  | join reason d => exact hreturn _ fun filling l => by rw [alarmSequence, hbody]
  | ack m => exact hact m _ (fun r r' => ackRecord_keepsPlace _ r r') fun filling l => by rw [alarmSequence, hbody]
  | silence m => exact hact m _ silenceRecord_keepsPlace fun filling l => by rw [alarmSequence, hbody]
  | clear m => exact hact m _ clearRecord_keepsPlace fun filling l => by rw [alarmSequence, hbody]
  | presenceRoll sd ld k => exact hnothing fun filling l => by rw [alarmSequence, hbody]
  | transferRoll r => exact hnothing fun filling l => by rw [alarmSequence, hbody]

/-! The records that a bulletin leaves, and the cursor. -/

section Repair

variable {g : Record → Option Record} {added older newer : List Record} {c : Record}

/-- A record of the list is still held after the bulletin where the bulletin keeps it. -/
theorem holds_after_iff (hg : KeepsPlace g) (hnodup : (rs.map Record.id).Nodup)
    (hadded : ∀ x ∈ added, holds rs x.id = false) {r : Record} (hr : r ∈ rs) :
    holds (rs.filterMap g ++ added) r.id = true ↔ ∃ r', g r = some r' := by
  rw [holds_iff]
  refine ⟨fun ⟨y, hy, hid⟩ => ?_, fun ⟨r', hr'⟩ => ⟨r', ?_, (hg r r' hr').1⟩⟩
  · rcases List.mem_append.1 hy with hkept | hnew
    · obtain ⟨x, hx, hxy⟩ := List.mem_filterMap.1 hkept
      have hsame : x = r := List.inj_on_of_nodup_map hnodup hx hr ((hg x y hxy).1.symm.trans hid)
      exact ⟨y, hsame ▸ hxy⟩
    · have hno := hadded y hnew
      rw [hid, holds_of_mem hr] at hno
      cases hno
  · exact List.mem_append_left _ (List.mem_filterMap.2 ⟨r, hr, hr'⟩)

/-- The part sent up to a record that the bulletin keeps. -/
theorem sentPart_filterMap (hg : KeepsPlace g) (holder : ∀ x ∈ older, x.id ≠ c.id) {c' : Record} (hc : g c = some c') :
    sentPart ((older ++ c :: newer).filterMap g ++ added) (some c.id) = (older ++ [c]).filterMap g := by
  have hid : c'.id = c.id := (hg c c' hc).1
  have hsplit : (older ++ c :: newer).filterMap g ++ added = older.filterMap g ++ c' :: (newer.filterMap g ++ added) := by
    rw [List.filterMap_append, List.filterMap_cons_some hc, List.append_assoc]
    rfl
  have holder' : ∀ x ∈ older.filterMap g, x.id ≠ c'.id := fun x hx => by
    obtain ⟨y, hy, hyx⟩ := List.mem_filterMap.1 hx
    rw [(hg y x hyx).1, hid]
    exact holder y hy
  rw [hsplit, ← hid, sentPart_at holder', List.filterMap_append, List.filterMap_cons_some hc]
  rfl

end Repair

/-- The part sent, each of its records acted on, is the part sent of the new list up to the repaired cursor (R17). -/
theorem sentPart_repairCursor {g : Record → Option Record} {added : List Record} {cursor : Option PointId} (hg : KeepsPlace g)
    (hnodup : (rs.map Record.id).Nodup) (hadded : ∀ x ∈ added, holds rs x.id = false) (hcursor : CursorLaw rs cursor) :
    (sentPart rs cursor).filterMap g
        = sentPart (rs.filterMap g ++ added) (repairCursor rs (rs.filterMap g ++ added) cursor)
      ∧ CursorLaw (rs.filterMap g ++ added) (repairCursor rs (rs.filterMap g ++ added) cursor) := by
  cases cursor with
  | none => exact ⟨rfl, nofun⟩
  | some p =>
    have hkept {r : Record} (hr : r ∈ rs) := holds_after_iff hg hnodup hadded hr
    have hgone {r : Record} (hr : r ∈ rs) (h : holds (rs.filterMap g ++ added) r.id = false) : g r = none :=
      Option.eq_none_iff_forall_not_mem.2 fun r' hr' => by
        rw [(hkept hr).2 ⟨r', hr'⟩] at h
        cases h
    rcases repairCursor_cases (after := rs.filterMap g ++ added) (hcursor p rfl) with
      ⟨hafter, hrepair⟩ | ⟨hafter, older, r, between, c, newer, hrs, rfl, hr, hbetween, hrepair⟩
      | ⟨hafter, older, c, newer, hrs, rfl, holder, hrepair⟩
    · obtain ⟨older, c, newer, rfl, rfl, holder⟩ := holds_split (hcursor p rfl)
      obtain ⟨c', hc'⟩ := (hkept (by simp)).1 hafter
      rw [hrepair, sentPart_at holder, sentPart_filterMap hg holder hc']
      exact ⟨rfl, cursorLaw_some hafter⟩
    · subst hrs
      have hc : g c = none := hgone (by simp) hafter
      have hnone : between.filterMap g = [] :=
        List.filterMap_eq_nil_iff.2 fun x hx => hgone (by simp [hx]) (hbetween x hx)
      obtain ⟨r', hr'⟩ := (hkept (r := r) (by simp)).1 hr
      have hsplit : older ++ r :: between ++ c :: newer = older ++ r :: (between ++ c :: newer) := by simp
      have hsent : sentPart (older ++ r :: between ++ c :: newer) (some c.id) = older ++ r :: between ++ [c] :=
        sentPart_at (older_ne_of_nodup hnodup)
      have hnew := sentPart_filterMap (added := added) (newer := between ++ c :: newer) hg
        (older_ne_of_nodup (hsplit ▸ hnodup)) hr'
      rw [hrepair, hsent]
      refine ⟨?_, cursorLaw_some hr⟩
      rw [← hsplit] at hnew
      rw [hnew, List.filterMap_append, List.filterMap_append, List.filterMap_append, List.filterMap_cons_some hr',
        List.filterMap_cons_some hr', hnone, List.filterMap_cons_none hc]
      simp
    · subst hrs
      have hc : g c = none := hgone (by simp) hafter
      have hnone : older.filterMap g = [] := List.filterMap_eq_nil_iff.2 fun x hx => hgone (by simp [hx]) (holder x hx)
      rw [hrepair, sentPart_at (older_ne_of_nodup hnodup), List.filterMap_append, hnone, List.filterMap_cons_none hc]
      exact ⟨rfl, nofun⟩

/-- Settles O27: the bulletin acts record by record, alike at both lists, and the cursor is repaired to the last record kept. -/
theorem bulletinsWhileFillingKeepTheJoinerEqualToWhatWasSent :
    Obligations.BulletinsWhileFillingKeepTheJoinerEqualToWhatWasSent := by
  intro options lossGroup f rs cursor hnodup _ hcursor
  obtain ⟨g, hg, hjoiner, added, hsender, hadded⟩ := exists_actsByRecord options lossGroup f rs
  dsimp only
  rw [hjoiner, hsender]
  exact sentPart_repairCursor hg hnodup hadded hcursor

end Acts

end Sys2Proof.Machine

namespace Sys2Proof.Machine

set_option Elab.async false

/-! The notify latches and what they report (R183), block by block: what a command leaves as it is, and what it reports. -/

/-- A latch with the value whose changes it reports. -/
structure Watched (α : Type) where
  latch : Bool
  value : α

section Watched

variable {α : Type} {a b c : Watched α}

/-- A set latch stays set, and a change sets it. -/
def Watched.Reports (a b : Watched α) : Prop := a.latch = true ∨ b.value ≠ a.value → b.latch = true

/-- A set latch stays set, a change sets it, and nothing else does. -/
def Watched.Exact (a b : Watched α) : Prop := b.latch = true ↔ a.latch = true ∨ b.value ≠ a.value

theorem Watched.Exact.reports (h : a.Exact b) : a.Reports b := h.2

theorem Watched.Exact.refl (a : Watched α) : a.Exact a := ⟨.inl, fun h => h.elim id fun h => absurd rfl h⟩

theorem Watched.Exact.of_eq (h : b = a) : a.Exact b := h ▸ .refl a

theorem Watched.Exact.of_note {x : Bool} (hlatch : b.latch = (a.latch || x)) (hx : x = true ↔ b.value ≠ a.value) :
    a.Exact b := by rw [Watched.Exact, hlatch, Bool.or_eq_true, hx]

/-- A change whose latch stands afterwards. -/
theorem Watched.Exact.of_changed (hlatch : b.latch = true) (hvalue : b.value ≠ a.value) : a.Exact b :=
  ⟨fun _ => .inr hvalue, fun _ => hlatch⟩

theorem Watched.Reports.trans (h : a.Reports b) (h' : b.Reports c) : a.Reports c := fun hac => by
  refine h' ?_
  by_cases hlatch : b.latch = true
  · exact .inl hlatch
  · have hsame : b.value = a.value := not_not.1 fun hne => hlatch (h (.inr hne))
    exact .inr (hsame ▸ hac.resolve_left fun ha => hlatch (h (.inl ha)))

/-- Two changes of which the second does not undo the first. -/
theorem Watched.Exact.trans (h : a.Exact b) (h' : b.Exact c) (hkept : c.value = a.value → b.value = a.value) : a.Exact c := by
  refine ⟨fun hc => ?_, fun hac => h.reports.trans h'.reports hac⟩
  by_cases hsame : c.value = a.value
  · have hb := hkept hsame
    exact .inl ((h.1 ((h'.1 hc).resolve_right fun hne => hne (hsame.trans hb.symm))).resolve_right fun hne => hne hb)
  · exact .inr hsame

end Watched

/-- Records and overflow indication under LIST_CHANGED (R15). -/
def State.listWatch (s : State) : Watched (List Record × Bool) :=
  ⟨s.port.latches.listChanged, s.annList.records, s.annList.overflow⟩

/-- The entries of the peers under PRESENCE_CHANGED; the own number has none (R122, R123). -/
def State.peersWatch (s : State) : Watched (StationNo → Option PeerState) :=
  ⟨s.port.latches.presenceChanged, fun n => if n = s.own then none else some (s.peerState n)⟩

/-- Station state and JOINING phase under STATE_CHANGED (R183). -/
def State.stateWatch (s : State) : Watched (Byte × Byte) :=
  ⟨s.port.latches.stateChanged, s.station.code, s.station.phaseCode⟩

/-- Nothing that a notify latch reports has moved. -/
structure Still (s t : State) : Prop where
  list : t.listWatch = s.listWatch
  peers : t.peersWatch = s.peersWatch
  state : t.stateWatch = s.stateWatch
  fault : t.port.latches.fault = s.port.latches.fault
  faultOn : t.faultOn = s.faultOn

/-- Nothing that a notify latch or a diagnostic counter reports has moved. -/
structure Inert (s t : State) : Prop extends Still s t where
  counters : t.port.counters = s.port.counters

section Inert

variable {s t u : State}

theorem Still.refl (s : State) : Still s s := ⟨rfl, rfl, rfl, rfl, rfl⟩

theorem Inert.refl (s : State) : Inert s s := ⟨.refl s, rfl⟩

theorem Still.trans (h : Still s t) (h' : Still t u) : Still s u :=
  ⟨h'.list.trans h.list, h'.peers.trans h.peers, h'.state.trans h.state, h'.fault.trans h.fault, h'.faultOn.trans h.faultOn⟩

theorem Inert.trans (h : Inert s t) (h' : Inert t u) : Inert s u :=
  ⟨h.toStill.trans h'.toStill, h'.counters.trans h.counters⟩

/-! Blocks that no latch and no counter watches. -/

theorem inert_outer (s : State) (l : Line) (o : Outbox) (b : Buttons) (tb : Timebase) (x : Session) (st : Vector Byte 26)
    (p : Pins) : Inert s { s with line := l, outbox := o, buttons := b, timebase := tb, session := x, store := st, pins := p } :=
  ⟨⟨rfl, rfl, rfl, rfl, rfl⟩, rfl⟩

theorem inert_port (s : State) (slot shifted : List Byte) (x : Selection) :
    Inert s { s with port := { s.port with slot := slot, shifted := shifted, selection := x } } :=
  ⟨⟨rfl, rfl, rfl, rfl, rfl⟩, rfl⟩

/-- Of a point only WAITING counts (R159). -/
theorem inert_points {ps : Vector Point 8} (h : ∀ p : LocalPoint, (ps[p]).waiting = (s.points[p]).waiting) :
    Inert s { s with points := ps } := by
  refine ⟨⟨rfl, rfl, rfl, rfl, ?_⟩, rfl⟩
  have hwaiting : ({ s with points := ps } : State).anyWaiting = s.anyWaiting := by
    rw [Bool.eq_iff_iff, ← not_iff_not, Bool.not_eq_true, Bool.not_eq_true, anyWaiting_eq_false, anyWaiting_eq_false]
    exact forall_congr' fun p => by rw [h p]
  simp only [State.faultOn, State.isActive, State.hasLossRecord, hwaiting]

/-- Of a presence entry only its state counts (R123). -/
theorem inert_presence {pr : Presence} (h : ∀ n : StationNo, (pr.peers[n]).state = s.peerState n) :
    Inert s { s with presence := pr } := by
  refine ⟨⟨rfl, ?_, rfl, rfl, rfl⟩, rfl⟩
  simp only [State.peersWatch, State.peerState, h]
  rfl

theorem inert_offer (s : State) (f : Outbox → Outbox) : Inert s (s.offer f) :=
  inert_outer s s.line _ s.buttons s.timebase s.session s.store s.pins

theorem inert_mapLine (s : State) (f : Line → Line) : Inert s (s.mapLine f) :=
  inert_outer s _ s.outbox s.buttons s.timebase s.session s.store s.pins

theorem inert_respond (s : State) (x : Status) (code : Byte) (fields : List Byte) : Inert s (s.respond x code fields) :=
  inert_port s _ _ _

theorem inert_endUnserved (s : State) : Inert s s.endUnserved := inert_port s _ _ _

theorem inert_mapSession (s : State) (f : Session → Session) : Inert s (s.mapSession f) :=
  inert_outer s s.line s.outbox s.buttons s.timebase _ s.store s.pins

theorem inert_senseVpp (s : State) (present : Bool) : Inert s (s.senseVpp present) :=
  inert_outer s s.line s.outbox s.buttons s.timebase s.session s.store _

theorem inert_timebase (s : State) (tb : Timebase) : Inert s { s with timebase := tb } :=
  inert_outer s s.line s.outbox s.buttons tb s.session s.store s.pins

/-! Points, buttons and offers. -/

theorem inert_mapPoint {p : LocalPoint} {f : Point → Point} (h : ∀ pt, (f pt).waiting = pt.waiting) :
    Inert s (s.mapPoint p f) :=
  inert_points fun q => by
    rw [update_get]
    split
    · next hq => rw [hq, h]
    · rfl

theorem inert_press (s : State) (k : GroupKind) : Inert s (s.press k) := inert_offer s _

theorem inert_transition (s : State) (p : LocalPoint) : Inert s (s.transition p) :=
  (inert_mapPoint (f := Point.transition) fun _ => rfl).trans (inert_offer _ _)

theorem inert_changeButton (s : State) (b : Button) : Inert s (s.changeButton b) := by
  have hbutton := inert_outer s s.line s.outbox (s.buttons.put b (s.buttons.get b).change) s.timebase s.session s.store s.pins
  unfold State.changeButton
  dsimp only
  split
  · split
    · exact hbutton.trans (inert_press _ _)
    · exact hbutton
  · exact hbutton

theorem Point.sample_waiting (pt : Point) (count : Nat) (a : Bool) : (pt.sample count a).waiting = pt.waiting := by
  unfold Point.sample
  split
  · rfl
  split
  · rfl
  split <;> rfl

theorem inert_sampleTick (s : State) (fields : BitVec 8) (buttons : BitVec 4) : Inert s (s.sampleTick fields buttons) := by
  have hpoints : Inert s { s with points := (s.sampleTick fields buttons).points } := inert_points fun p => by
    change ((if s.inService then samplePoints s.inUse fields s.points else s.points)[p]).waiting = _
    split
    · simpa [samplePoints] using Point.sample_waiting _ _ _
    · rfl
  exact hpoints.trans (inert_outer _ s.line s.outbox _ _ s.session s.store _)

theorem inert_presenceDue {n : StationNo} {f : Peer → Peer} (h : ∀ e, (f e).state = e.state) :
    Inert s { s with presence := { s.presence with peers := update s.presence.peers n f } } :=
  inert_presence fun m => by
    rw [update_get]
    split
    · next hm => rw [hm, h]; rfl
    · rfl

theorem inert_offerLossAtLimit (s : State) (n : StationNo) : Inert s (s.offerLossAtLimit n) :=
  (inert_presenceDue (f := fun e => { e with due := false }) fun _ => rfl).trans (inert_offer _ _)

theorem inert_offerRollAtLimit (s : State) : Inert s s.offerRollAtLimit := by
  have hdue : Inert s { s with presence := { s.presence with quietDue := false } } := inert_presence fun _ => rfl
  exact hdue.trans (inert_offer _ _)

theorem Station.boundary_codes (st : Station) : st.boundary.code = st.code ∧ st.boundary.phaseCode = st.phaseCode := by
  cases st with
  | joining phase => cases phase <;> exact ⟨rfl, rfl⟩
  | _ => exact ⟨rfl, rfl⟩

theorem Station.boundary_active (st : Station) : st.boundary = .active ↔ st = .active := by
  cases st with
  | joining phase => cases phase <;> simp [Station.boundary]
  | _ => simp [Station.boundary]

/-- A boundary moves counts inside the station state and inside the presence entries, and no state (R127, R174). -/
theorem inert_boundary (s : State) : Inert s s.boundary := by
  have hpresence : Inert s { s with presence := s.presence.boundary s.isActive } := inert_presence fun n => by
    simp only [Presence.boundary, Vector.getElem_map, Fin.getElem_fin, State.peerState]
    unfold Peer.boundary
    split <;> rfl
  have hstation (v : State) : Inert v { v with station := v.station.boundary } := by
    obtain ⟨hcode, hphase⟩ := v.station.boundary_codes
    have hactive : ({ v with station := v.station.boundary } : State).isActive = v.isActive :=
      decide_eq_decide.2 v.station.boundary_active
    refine ⟨⟨rfl, rfl, ?_, rfl, ?_⟩, rfl⟩
    · simp only [State.stateWatch, hcode, hphase]
    · simp only [State.faultOn, hactive]
      rfl
  exact (hpresence.trans (hstation _)).trans (inert_timebase _ _)

/-! The service port and the programming session. -/

theorem inert_request {code : Byte} {take : State → State} (h : Inert s (take s)) : Inert s (s.request code take) := by
  unfold State.request
  split
  · exact inert_endUnserved s
  split
  · exact inert_respond s _ _ _
  · exact h

theorem inert_programming {code : Byte} {take : State → State} (h : Inert s (take s)) : Inert s (s.programming code take) := by
  unfold State.programming
  split
  · exact h
  · exact inert_respond s _ _ _

theorem inert_openJudged (s : State) : Inert s s.openJudged := by
  unfold State.openJudged
  split
  · exact inert_respond s _ _ _
  split
  · exact inert_respond s _ _ _
  · exact (inert_mapSession s _).trans (inert_respond _ _ _ _)

theorem inert_stageJudged (s : State) (cell value : Byte) : Inert s (s.stageJudged cell value) := by
  unfold State.stageJudged
  split
  · exact inert_respond s _ _ _
  split
  · exact (inert_mapSession s _).trans (inert_respond _ _ _ _)
  · exact inert_respond s _ _ _

theorem inert_burnJudged (s : State) : Inert s s.burnJudged := by
  unfold State.burnJudged
  split
  · exact inert_respond s _ _ _
  split
  · exact inert_respond s _ _ _
  split
  · exact (inert_mapSession s _).trans (inert_respond _ _ _ _)
  · exact ((inert_mapSession s _).trans (inert_timebase _ _)).trans (inert_respond _ _ _ _)

theorem inert_pressJudged (s : State) (button : Byte) : Inert s (s.pressJudged button) := by
  unfold State.pressJudged
  split
  · exact inert_respond s _ _ _
  split
  · exact (inert_press s _).trans (inert_respond _ _ _ _)
  · exact inert_respond s _ _ _

theorem inert_listJudged (s : State) (operand : Half) : Inert s (s.listJudged operand) := by
  unfold State.listJudged
  split
  · exact inert_respond s _ _ _
  split
  · split <;> exact inert_respond s _ _ _
  · exact inert_respond s _ _ _

theorem inert_settingsJudged (s : State) (cell : Byte) : Inert s (s.settingsJudged cell) := by
  unfold State.settingsJudged
  split <;> exact inert_respond s _ _ _

/-! Starts and ends on the line. -/

theorem inert_startOwn (s : State) : Inert s s.startOwn := by
  unfold State.startOwn
  split
  · exact .refl s
  · exact inert_outer s _ _ s.buttons s.timebase s.session s.store s.pins

theorem inert_execArbitrationLost (s : State) (cell : Fin 8) : Answers (execArbitrationLost cell s) (Inert s) := by
  unfold execArbitrationLost
  split
  · exact .next (.refl s)
  split
  · exact .guard (fun _ => inert_outer s _ _ s.buttons s.timebase s.session s.store s.pins) (.refl s)
  · exact .next (.refl s)
  · exact .next (.refl s)

theorem inert_execCollision (s : State) (cell : Nat) : Answers (execCollision cell s) (Inert s) := by
  unfold execCollision
  split
  · exact .next (.refl s)
  split
  · exact .guard (fun _ => inert_mapLine s _) (.refl s)
  · exact .next (.refl s)
  · exact .next (.refl s)

end Inert

/-- The commands that move nothing a latch or a diagnostic counter watches: all but those of a reset, of a timer's end, of
the line held and of a frame's end, and those that clear latches or counters. -/
def inertCommand (c : Instr) : Bool :=
  match c with
  | .powerOn | .supplyLost | .pinReset | .resetEnd | .restart => false
  | .startHoldEnd | .listenEnd | .transferTimeout | .mutedTimerExpiry => false
  | .lineHeld | .frameChecked _ | .ownFrameOutcome _ | .receivedFrameOutcome _ => false
  | .acknowledge _ | .clearCounters => false
  | _ => true

theorem exec_inert {c : Instr} (hc : inertCommand c = true) (s : State) : Answers (exec c s) (Inert s) := by
  cases c with
  | powerOn | supplyLost | pinReset | resetEnd | restart | startHoldEnd | listenEnd | transferTimeout | mutedTimerExpiry
  | lineHeld | frameChecked | ownFrameOutcome | receivedFrameOutcome | acknowledge | clearCounters => cases hc
  | sampleTick fields buttons =>
    exact .guard (fun _ => (inert_sampleTick s fields buttons).trans (inert_timebase _ _)) (.refl s)
  | debouncedTransition p => exact .guard (fun _ => inert_transition s p) (.refl s)
  | buttonDebouncedChange b => exact .guard (fun _ => inert_changeButton s b) (.refl s)
  | flashPhaseAdvance => exact .guard (fun _ => inert_timebase s _) (.refl s)
  | rollIntervalBoundary => exact .guard (fun _ => inert_boundary s) (.refl s)
  | silenceLimit n => exact .guard (fun _ => inert_offerLossAtLimit s n) (.refl s)
  | quietCounterLimit => exact .guard (fun _ => inert_offerRollAtLimit s) (.refl s)
  | gapFramed => exact .guard (fun _ => inert_mapLine s _) (.refl s)
  | ownStart n => exact .guard (fun _ => (inert_mapLine s _).trans (inert_startOwn _)) (.refl s)
  | anothersStart n => exact .guard (fun _ => inert_mapLine s _) (.refl s)
  | dominantCellNotAStart n => exact .guard (fun _ => inert_mapLine s _) (.refl s)
  | arbitrationLost cell => exact inert_execArbitrationLost s cell
  | collision cell => exact inert_execCollision s cell
  | lineHeldEnd => exact .guard (fun _ => inert_mapLine s _) (.refl s)
  | burnCompletion =>
    exact .guard (fun _ => inert_outer s s.line s.outbox s.buttons _ _ _ s.pins) (.refl s)
  | vppLost =>
    exact .guard (fun _ => inert_outer s s.line s.outbox s.buttons _ _ s.store _) (inert_senseVpp s false)
  | truncatedSelection code =>
    refine .ite (fun _ => .next (inert_endUnserved s)) fun _ => ?_
    cases code with
    | none => exact .next (inert_respond s _ _ _)
    | some c => exact .guard (fun _ => inert_respond s _ _ _) (.refl s)
  | unknownRequest code => exact .guard (fun _ => inert_request (inert_respond s _ _ _)) (.refl s)
  | status => exact .ite (fun _ => .next (inert_endUnserved s)) fun _ => .next (inert_respond s _ _ _)
  | list operand =>
    exact .ite (fun _ => .next (inert_endUnserved s)) fun _ =>
      .ite (fun _ => .next (inert_respond s _ _ _)) fun _ => .next (inert_listJudged s operand)
  | presence | points | counters => exact .next (inert_request (inert_respond s _ _ _))
  | press button => exact .next (inert_request (inert_pressJudged s button))
  | settings cell => exact .next (inert_request (inert_settingsJudged s cell))
  | openSession vpp =>
    exact .next ((inert_senseVpp s vpp).trans (inert_request (inert_programming (inert_openJudged _))))
  | stage cell value => exact .next (inert_request (inert_programming (inert_stageJudged s cell value)))
  | burn vpp => exact .next ((inert_senseVpp s vpp).trans (inert_request (inert_programming (inert_burnJudged _))))
  | close =>
    exact .next (inert_request (inert_programming ((inert_mapSession s _).trans (inert_respond _ _ _ _))))
  | selFallingEdge =>
    change Answers (execSelFallingEdge s) _
    unfold execSelFallingEdge
    split
    · exact .next (.refl s)
    · exact .next (inert_port s _ _ _)
    · exact .next (inert_port s _ _ _)

end Sys2Proof.Machine

namespace Sys2Proof.Machine

set_option Elab.async false

/-! The diagnostic counters (R188). -/

theorem countIf_toNat (b : Bool) (c : Half) :
    ((countIf b c).toNat = c.toNat ∨ (countIf b c).toNat = c.toNat + 1)
    ∧ (c.toNat = 65535 → (countIf b c).toNat = 65535) := by
  unfold countIf countUp
  split
  · split
    · exact ⟨.inl rfl, id⟩
    · next hne =>
      have hlt : c.toNat ≠ 65535 := fun h => hne (BitVec.eq_of_toNat_eq h)
      have hsize := c.isLt
      have hnext : (c + 1).toNat = c.toNat + 1 := by
        rw [BitVec.toNat_add, show (1 : Half).toNat = 1 from rfl, Nat.mod_eq_of_lt (by omega)]
      exact ⟨.inr hnext, fun h => absurd h hlt⟩
  · exact ⟨.inl rfl, id⟩

/-- The counters with one more event in each of those named. -/
def Counters.raised (c : Counters) (good veto voided resync mute held refusal : Bool) : Counters where
  goodFrames := countIf good c.goodFrames
  vetosDriven := countIf veto c.vetosDriven
  ownVoided := countIf voided c.ownVoided
  resyncs := countIf resync c.resyncs
  mutes := countIf mute c.mutes
  lineHeld := countIf held c.lineHeld
  overflowRefusals := countIf refusal c.overflowRefusals

/-- Each counter stays or takes one more event. -/
def Counters.Rises (c c' : Counters) : Prop := ∃ g v o r m l f, c' = c.raised g v o r m l f

theorem Counters.Rises.refl (c : Counters) : c.Rises c := ⟨false, false, false, false, false, false, false, rfl⟩

theorem Counters.Rises.of_eq {c c' : Counters} (h : c' = c) : c.Rises c' := h ▸ .refl c

theorem Counters.Rises.bounds {c c' : Counters} (h : c.Rises c') {i : Nat} (hi : i < 7) :
    let a := (c.toList.getD i 0).toNat
    let b := (c'.toList.getD i 0).toNat
    (b = a ∨ b = a + 1) ∧ (a = 65535 → b = 65535) := by
  obtain ⟨g, v, o, r, m, l, f, rfl⟩ := h
  match i, hi with
  | 0, _ => exact countIf_toNat g _
  | 1, _ => exact countIf_toNat v _
  | 2, _ => exact countIf_toNat o _
  | 3, _ => exact countIf_toNat r _
  | 4, _ => exact countIf_toNat m _
  | 5, _ => exact countIf_toNat l _
  | 6, _ => exact countIf_toNat f _

section Counters

variable {s t : State} {f : Frame}

/-! Acceptance and rolls: one counter, of the refusals (R6). -/

theorem accept_counters (s : State) (how : Acceptance) (f : Frame) :
    (s.accept how f).port.counters = { s.port.counters with
      overflowRefusals := countIf (decide ((s.alarmOf how f).1 = .refused)) s.port.counters.overflowRefusals } := by
  have hafter (v : State) (b : Bool) : (v.afterRemoval b).port.counters = v.port.counters :=
    congrArg Port.counters (State.pointsOnly_port (v.afterRemoval_pointsOnly b))
  have hoffers (v : State) : (v.walkOffers how f).port = v.port := by
    unfold State.walkOffers
    split <;> rfl
  have hloss (v : State) : (v.ownLoss how f).port.counters = v.port.counters := by
    rcases ownLoss_eq v how f with h | ⟨h, -⟩ <;> rw [h]
    rfl
  have hwalks (v : State) : (v.walkEffects how f).port = v.port := by
    unfold State.walkEffects
    split <;> try rfl
    split <;> rfl
  have hreport (v : State) (x : RaiseResult) : (v.reportRaise how f x).port = v.port := by
    unfold State.reportRaise
    split <;> rfl
  unfold State.accept
  dsimp only
  rw [hafter, hoffers, hloss, hwalks, State.presenceOnly_port_counters (State.presenceEffects_presenceOnly _ how f), hreport,
    State.applyAlarm_port_counters]
  rfl

theorem accept_rises (s : State) (how : Acceptance) (f : Frame) : s.port.counters.Rises (s.accept how f).port.counters :=
  ⟨_, _, _, _, _, _, _, (accept_counters s how f).trans (rfl : _ = s.port.counters.raised false false false false false false _)⟩

theorem presenceEffects_counters (s : State) (how : Acceptance) (f : Frame) :
    (s.presenceEffects how f).port.counters = s.port.counters :=
  State.presenceOnly_port_counters (s.presenceEffects_presenceOnly how f)

theorem takeFirstRoll_counters (s : State) (f : Frame) (r : Roll) :
    (s.takeFirstRoll f r).port.counters = s.port.counters :=
  (takeRoll_frame _ r).2.2.1.trans (presenceEffects_counters { s with lineCount := f.count + 1 } .filling f)

theorem acceptFilling_rises (s : State) (f : Frame) : s.port.counters.Rises (s.acceptFilling f).port.counters := by
  unfold State.acceptFilling
  split
  · split
    · exact .of_eq ((takeRoll_frame _ _).2.2.1.trans (presenceEffects_counters s.countAccepted .filling f))
    · exact accept_rises s .filling f
  · exact accept_rises s .filling f

/-! The end of a frame. -/

theorem enterJoining_rises (s : State) (r : Reason) : s.port.counters.Rises (s.enterJoining r).port.counters :=
  ⟨false, false, false, decide (r = .resync), false, false, false, rfl⟩

theorem receiverOutcome_rises (s : State) (heard : Heard) (drive : Option Slot) (x : Seen) :
    s.port.counters.Rises (s.receiverOutcome heard drive x).port.counters := by
  unfold State.receiverOutcome
  split
  · unfold State.activeOutcome
    split
    · split
      · exact accept_rises s _ _
      · exact .refl _
    · split
      · split
        · exact .refl _
        split
        · exact accept_rises s _ _
        · exact .of_eq rfl
      split
      · exact enterJoining_rises s _
      · exact .refl _
    · exact .refl _
  · split
    · unfold State.mutedOutcome
      split
      · split
        · exact accept_rises s _ _
        · exact .of_eq rfl
      · exact .of_eq rfl
    · exact .refl _
  · unfold State.admittedOutcome
    split
    · split
      · exact .of_eq (takeFirstRoll_counters s _ _)
      · exact .refl _
    · exact .refl _
  · unfold State.fillingOutcome
    split
    · split
      · exact acceptFilling_rises s _
      split
      · exact enterJoining_rises s _
      · exact .refl _
    · exact .refl _
  · exact .refl _

theorem takeTimerEnd_counters (s : State) : s.takeTimerEnd.port.counters = s.port.counters := by
  unfold State.takeTimerEnd
  split
  · rfl
  split
  · rfl
  split <;> rfl

theorem endReceivedFrame_rises (s : State) (x : InFrame) (slots : Slots) :
    s.port.counters.Rises (s.endReceivedFrame x slots).port.counters := by
  unfold State.endReceivedFrame
  dsimp only
  split
  · exact .of_eq (State.enterDiscord_port_counters _)
  · exact receiverOutcome_rises (s.mapLine fun l => l.endFrame x slots) _ _ _

/-- The counters that the end of an own frame can raise (R75, R80, R93, R6). -/
theorem ownOutcome_counters (s : State) (f : Frame) (x : Seen) :
    ∃ o r m l, (s.ownOutcome f x).port.counters = s.port.counters.raised false false o r m false l := by
  have hvoid : ∃ o r m l, s.void.port.counters = s.port.counters.raised false false o r m false l := by
    unfold State.void
    dsimp only
    split
    · exact ⟨true, false, false, false, rfl⟩
    · exact ⟨true, false, true, false, rfl⟩
  have hsame {t : State} (h : t.port.counters = s.port.counters) :
      ∃ o r m l, t.port.counters = s.port.counters.raised false false o r m false l := ⟨false, false, false, false, h⟩
  have hfound : s.creditAccepted.found.port.counters = s.port.counters := by
    unfold State.found
    rw [State.pointsOnly_port (State.reconcile_pointsOnly _), State.enterActive_port_counters, State.creditAccepted_port]
  have haccepted (lone : Bool) :
      ∃ o r m l, (s.ownAccepted f lone).port.counters = s.port.counters.raised false false o r m false l := by
    unfold State.ownAccepted
    split
    · split
      · exact hsame hfound
      · exact hsame (State.becomeAdmitted_port_counters _)
    · exact ⟨false, false, false, _, accept_counters s.creditAccepted .sender f⟩
  unfold State.ownOutcome
  split
  · exact hvoid
  split
  · exact haccepted false
  split
  · unfold State.stepped
    split
    · exact hsame (State.enterDiscord_port_counters _)
    · exact ⟨false, true, false, false, rfl⟩
  split
  · exact hvoid
  · exact haccepted true

theorem endOwnFrame_rises (s : State) (x : InFrame) (f : Frame) (slots : Slots) :
    s.port.counters.Rises (s.endOwnFrame x f slots).port.counters := by
  obtain ⟨o, r, m, l, h⟩ := ownOutcome_counters ((s.mapLine fun l => l.endFrame x slots).countVeto x.awaitsVeto) f
    (slotsSeen slots x.drive)
  exact ⟨false, x.awaitsVeto, o, r, m, false, l, h⟩

/-! The check. -/

theorem hear_counters (s : State) (f : Frame) : (s.hear f).port.counters = s.port.counters := by
  unfold State.hear
  split
  · rfl
  · exact State.presenceOnly_port_counters
      (s := (s.clearSilence f.sender).mapOutbox fun o => o.withdraw (.loss f.sender))
      (State.noteHeard_presenceOnly ((s.clearSilence f.sender).mapOutbox fun o => o.withdraw (.loss f.sender)) f)

theorem handOn_counters (s : State) (f : Frame) :
    (s.handOn f).port.counters = s.port.counters.raised true false false false false false false := by
  have hheard := hear_counters (s.mapCounters fun c => { c with goodFrames := countUp c.goodFrames }) f
  unfold State.handOn
  dsimp only
  split
  · split
    · exact hheard
    · exact hheard
  · exact hheard

theorem checkFrame_rises (s : State) (x : InFrame) (cells : List Level) :
    s.port.counters.Rises (s.checkFrame x cells).port.counters := by
  unfold State.checkFrame
  split
  · exact ⟨false, _, false, false, false, false, false, rfl⟩
  · exact ⟨true, _, false, false, false, false, false, handOn_counters _ _⟩

/-! Every command. -/

theorem execFrameChecked_rises (s : State) (cells : List Level) :
    Answers (execFrameChecked cells s) fun t => s.port.counters.Rises t.port.counters := by
  unfold execFrameChecked
  split
  · exact .next (.refl _)
  split
  · exact .next (.refl _)
  · refine .guard (fun _ => ?_) (.refl _)
    have hcheck := checkFrame_rises s.takeTimerEnd
    rw [takeTimerEnd_counters] at hcheck
    exact hcheck _ _
  · exact .next (.refl _)

theorem execOwnFrameOutcome_rises (s : State) (slots : Slots) :
    Answers (execOwnFrameOutcome slots s) fun t => s.port.counters.Rises t.port.counters := by
  unfold execOwnFrameOutcome
  split
  · exact .next (.refl _)
  split
  · exact .next (.refl _)
  · exact .guard (fun _ => endOwnFrame_rises s _ _ slots) (.refl _)
  · exact .guard (fun _ => endOwnFrame_rises s _ _ slots) (.refl _)

theorem execReceivedFrameOutcome_rises (s : State) (slots : Slots) :
    Answers (execReceivedFrameOutcome slots s) fun t => s.port.counters.Rises t.port.counters := by
  unfold execReceivedFrameOutcome
  split
  · exact .next (.refl _)
  split
  · exact .next (.refl _)
  · refine .guard (fun _ => ?_) (.refl _)
    have hend := endReceivedFrame_rises s.takeTimerEnd
    rw [takeTimerEnd_counters] at hend
    exact hend _ _
  · exact .next (.refl _)

theorem startUp_counters (s : State) (kind : ResetKind) : (s.startUp kind).port.counters = s.port.counters := by
  rw [startUp_blocks]
  rfl

theorem request_counters {code : Byte} {take : State → State} (h : (take s).port.counters = s.port.counters) :
    (s.request code take).port.counters = s.port.counters := by
  unfold State.request
  split
  · rfl
  split
  · rfl
  · exact h

theorem exec_rises {c : Instr} (hclear : c ≠ .clearCounters) (hpower : c ≠ .powerOn) (s : State) :
    Answers (exec c s) fun t => s.port.counters.Rises t.port.counters := by
  by_cases hinert : inertCommand c = true
  · exact (exec_inert hinert s).mono fun t h => .of_eq h.counters
  cases c with
  | clearCounters => exact absurd rfl hclear
  | powerOn => exact absurd rfl hpower
  | supplyLost => exact .next (.of_eq rfl)
  | pinReset => exact .guard (fun _ => .of_eq rfl) (.refl _)
  | resetEnd =>
    change Answers (execResetEnd s) _
    unfold execResetEnd
    split
    · exact .next (.of_eq (startUp_counters s _))
    · exact .next (.refl _)
    · exact .next (.refl _)
  | restart => exact .next (.of_eq (request_counters (startUp_counters s.endUnserved .restart)))
  | acknowledge mask => exact .next (.of_eq (request_counters rfl))
  | startHoldEnd => exact .guard (fun _ => .of_eq rfl) (.refl _)
  | listenEnd => exact .guard (fun _ => enterJoining_rises s _) (.refl _)
  | mutedTimerExpiry => exact .guard (fun _ => enterJoining_rises s _) (.refl _)
  | transferTimeout => exact .guard (fun _ => .of_eq rfl) (.refl _)
  | lineHeld => exact .guard (fun _ => ⟨false, false, false, false, false, true, false, rfl⟩) (.refl _)
  | frameChecked cells => exact execFrameChecked_rises s cells
  | ownFrameOutcome slots => exact execOwnFrameOutcome_rises s slots
  | receivedFrameOutcome slots => exact execReceivedFrameOutcome_rises s slots
  | _ => exact absurd rfl hinert

/-- Settles O17: each command's counters are the former ones with at most one more event in each. -/
theorem countersRiseByOneAndSaturate : Obligations.CountersRiseByOneAndSaturate := by
  intro c s t hclear hpower h i hi
  obtain ⟨u, hu, hrises⟩ := exec_rises hclear hpower s
  obtain rfl : u = t := by simpa [h] using hu.symm
  exact hrises.bounds hi

end Counters

end Sys2Proof.Machine

namespace Sys2Proof.Machine

set_option Elab.async false

/-! What each operation of acceptance, joining and the outcomes reports (R15, R123, R183). -/

/-- A set latch stays set, every change sets its latch, and no FAULT latch is set. -/
structure Notes (s t : State) : Prop where
  list : s.listWatch.Reports t.listWatch
  peers : s.peersWatch.Reports t.peersWatch
  state : s.stateWatch.Reports t.stateWatch
  fault : t.port.latches.fault = s.port.latches.fault

/-- No latch but a changed block's is set, each under its own condition. -/
structure Marks (L P S : Prop) (s t : State) : Prop extends Notes s t where
  listExact : L → s.listWatch.Exact t.listWatch
  peersExact : P → s.peersWatch.Exact t.peersWatch
  stateExact : S → s.stateWatch.Exact t.stateWatch

section Marks

variable {L P S : Prop} {s t u : State}

theorem Notes.trans (h : Notes s t) (h' : Notes t u) : Notes s u :=
  ⟨h.list.trans h'.list, h.peers.trans h'.peers, h.state.trans h'.state, h'.fault.trans h.fault⟩

theorem Marks.exact (hlist : s.listWatch.Exact t.listWatch) (hpeers : s.peersWatch.Exact t.peersWatch)
    (hstate : s.stateWatch.Exact t.stateWatch) (hfault : t.port.latches.fault = s.port.latches.fault) : Marks L P S s t :=
  ⟨⟨hlist.reports, hpeers.reports, hstate.reports, hfault⟩, fun _ => hlist, fun _ => hpeers, fun _ => hstate⟩

theorem Still.marks (h : Still s t) : Marks L P S s t :=
  .exact (.of_eq h.list) (.of_eq h.peers) (.of_eq h.state) h.fault

theorem Marks.refl (s : State) : Marks L P S s s := (Still.refl s).marks

/-- The marks of a state depend on what is watched alone. -/
theorem Marks.congr_left {s' : State} (h : Marks L P S s' t) (hs : Still s s') : Marks L P S s t := by
  obtain ⟨⟨hlist, hpeers, hstate, hfault⟩, hL, hP, hS⟩ := h
  rw [hs.list] at hlist hL
  rw [hs.peers] at hpeers hP
  rw [hs.state] at hstate hS
  exact ⟨⟨hlist, hpeers, hstate, hfault.trans hs.fault⟩, hL, hP, hS⟩

theorem Marks.mono {L' P' S' : Prop} (h : Marks L P S s t) (hL : L' → L) (hP : P' → P) (hS : S' → S) : Marks L' P' S' s t :=
  ⟨h.toNotes, fun x => h.listExact (hL x), fun x => h.peersExact (hP x), fun x => h.stateExact (hS x)⟩

/-! The list. -/

theorem putList_exact (s : State) (rs : List Record) (o : Bool) : s.listWatch.Exact (s.putList rs o).listWatch :=
  .of_note rfl (by simp [State.listWatch, or_iff_not_and_not])

/-! The presence table. -/

theorem peersWatch_ne_iff (h : t.own = s.own) :
    t.peersWatch.value ≠ s.peersWatch.value ↔ ∃ n, n ≠ s.own ∧ t.peerState n ≠ s.peerState n := by
  rw [Function.ne_iff]
  refine exists_congr fun n => ?_
  by_cases hn : n = s.own
  · simp [State.peersWatch, hn, h]
  · simp [State.peersWatch, hn, h]

theorem peersWatch_eq_iff (h : t.own = s.own) :
    t.peersWatch.value = s.peersWatch.value ↔ ∀ n, n ≠ s.own → t.peerState n = s.peerState n := by
  rw [← not_iff_not, ← ne_eq, peersWatch_ne_iff h]
  push Not
  rfl

theorem setPeer_exact (s : State) (n : StationNo) (x : PeerState) : s.peersWatch.Exact (s.setPeer n x).peersWatch := by
  refine .of_note rfl ?_
  rw [decide_eq_true_iff, peersWatch_ne_iff (s := s) (t := s.setPeer n x) (own_congr rfl)]
  simp only [State.setPeer_peerState]
  refine ⟨fun ⟨hn, hne⟩ => ⟨n, hn, by simpa [hn] using hne.symm⟩, fun ⟨m, hm, hne⟩ => ?_⟩
  split at hne
  · next h => exact ⟨h.2, fun heq => hne (h.1 ▸ heq.symm)⟩
  · exact absurd rfl hne

theorem forgetPeers_exact (s : State) : s.peersWatch.Exact s.forgetPeers.peersWatch := by
  refine .of_note rfl ?_
  have hreset (n : StationNo) : s.forgetPeers.peerState n = .absent :=
    congrArg Peer.state (resetPeers_get n)
  rw [peersWatch_ne_iff (s := s) (t := s.forgetPeers) (own_congr rfl), List.any_eq_true]
  simp only [hreset, List.mem_finRange, true_and, Bool.and_eq_true, decide_eq_true_eq]
  exact exists_congr fun n => and_congr_right fun _ => ne_comm

/-- Two changes of the presence table of which the second does not undo the first. -/
theorem peersExact_trans (hst : t.own = s.own) (htu : u.own = t.own) (h : s.peersWatch.Exact t.peersWatch)
    (h' : t.peersWatch.Exact u.peersWatch)
    (hkept : ∀ n, n ≠ s.own → u.peerState n = s.peerState n → t.peerState n = s.peerState n) :
    s.peersWatch.Exact u.peersWatch := by
  refine h.trans h' fun hus => ?_
  rw [peersWatch_eq_iff (htu.trans hst)] at hus
  exact (peersWatch_eq_iff hst).2 fun n hn => hkept n hn (hus n hn)

/-- A presence entry that noting a sender can change (Table 7-3, last row). -/
def PeerState.fresh (x : PeerState) : Prop := x = .absent ∨ x = .joining

theorem notedState_of_not_fresh {x : PeerState} (h : ¬x.fresh) : notedState x = x := by
  cases x <;> first | rfl | exact absurd (by simp [PeerState.fresh]) h

theorem noteSender_exact (s : State) (n : StationNo) : s.peersWatch.Exact (s.noteSender n).peersWatch := by
  unfold State.noteSender
  split <;> first | exact setPeer_exact _ _ _ | exact .refl _

theorem noteSender_kept {n m : StationNo} (hm : m ≠ s.own) (h : ¬(s.peerState m).fresh) :
    (s.noteSender n).peerState m = s.peerState m := by
  by_cases hmn : m = n
  · subst hmn
    rw [noteSender_peerState_same hm, notedState_of_not_fresh h]
  · simp only [State.peerState, noteSender_get_of_ne hmn]

theorem own_of_presenceOnly (h : s.presenceOnly t) : t.own = s.own := own_congr (State.presenceOnly_settings h)

theorem noteSender_own_eq (s : State) (n : StationNo) : (s.noteSender n).own = s.own :=
  own_of_presenceOnly (s.noteSender_presenceOnly n)

/-- What follows the noting of a sender and makes no entry fresh does not undo it. -/
theorem noteSender_trans {n : StationNo} (hu : u.own = s.own) (h : (s.noteSender n).peersWatch.Exact u.peersWatch)
    (hfresh : ∀ m, m ≠ s.own → (u.peerState m).fresh → u.peerState m = (s.noteSender n).peerState m) :
    s.peersWatch.Exact u.peersWatch := by
  refine peersExact_trans (noteSender_own_eq s n) (hu.trans (noteSender_own_eq s n).symm) (noteSender_exact s n) h
    fun m hm hsame => ?_
  by_cases hf : (s.peerState m).fresh
  · exact (hfresh m hm (hsame ▸ hf)).symm.trans hsame
  · exact noteSender_kept hm hf

theorem markLost_exact (s : State) (before : PeerState) (n : StationNo) :
    s.peersWatch.Exact (s.markLost before n).peersWatch := by
  unfold State.markLost
  split <;> first | exact setPeer_exact _ _ _ | exact .refl _

theorem setPeer_fresh {n m : StationNo} {x : PeerState} (hx : ¬x.fresh) (h : ((s.setPeer n x).peerState m).fresh) :
    (s.setPeer n x).peerState m = s.peerState m := by
  rw [State.setPeer_peerState] at h ⊢
  split
  · next hm => rw [if_pos hm] at h; exact absurd h hx
  · rfl

theorem markLost_fresh {before : PeerState} {n m : StationNo} (h : ((s.markLost before n).peerState m).fresh) :
    (s.markLost before n).peerState m = s.peerState m := by
  have hsilent : ¬PeerState.silent.fresh := by simp [PeerState.fresh]
  unfold State.markLost at h ⊢
  split at h <;> first | exact setPeer_fresh hsilent h | rfl

theorem clearSilence_watch (s : State) (n : StationNo) : (s.clearSilence n).peersWatch = s.peersWatch := by
  simp only [State.peersWatch, State.clearSilence_peerState]
  rfl

theorem noteTarget_exact (s : State) (r : Roll) : s.peersWatch.Exact (s.noteTarget r).peersWatch := by
  unfold State.noteTarget
  rw [clearSilence_watch]
  split
  · exact setPeer_exact _ _ _
  · exact .refl _

theorem noteTarget_fresh {r : Roll} {m : StationNo} (h : ((s.noteTarget r).peerState m).fresh) :
    (s.noteTarget r).peerState m = s.peerState m := by
  have hactive : ¬PeerState.active.fresh := by simp [PeerState.fresh]
  unfold State.noteTarget at h ⊢
  rw [State.clearSilence_peerState] at h ⊢
  split at h
  · next hc =>
    rw [if_pos hc]
    exact setPeer_fresh hactive h
  · next hc => rw [if_neg hc]

theorem noteJoin_exact (s : State) (how : Acceptance) (n : StationNo) : s.peersWatch.Exact (s.noteJoin how n).peersWatch := by
  unfold State.noteJoin
  split
  · exact setPeer_exact _ _ _
  · exact setPeer_exact _ _ _
  · exact setPeer_exact _ _ _
  · split
    · exact .refl _
    · exact setPeer_exact _ _ _
  · split
    · exact .refl _
    · exact setPeer_exact _ _ _

/-- The presence changes of an accepted bulletin (R124). -/
theorem presenceEffects_exact (s : State) (how : Acceptance) (f : Frame) :
    s.peersWatch.Exact (s.presenceEffects how f).peersWatch := by
  have hown : (s.presenceEffects how f).own = s.own := own_of_presenceOnly (s.presenceEffects_presenceOnly how f)
  unfold State.presenceEffects at hown ⊢
  split at hown
  · exact noteJoin_exact _ _ _
  · exact noteSender_trans hown (markLost_exact _ _ _) fun _ _ => markLost_fresh
  · exact noteSender_trans hown (noteTarget_exact _ _) fun _ _ => noteTarget_fresh
  all_goals exact noteSender_exact _ _

end Marks

end Sys2Proof.Machine

namespace Sys2Proof.Machine

set_option Elab.async false

/-! Acceptance, the entries to the station states, and the rolls taken, as the latches see them. -/

section Marks

variable {L P S : Prop} {s t u v : State} {how : Acceptance} {f : Frame}

theorem Still.of_pointsOnly_port (h : s.pointsOnly t) : t.listWatch = s.listWatch ∧ t.peersWatch = s.peersWatch
    ∧ t.stateWatch = s.stateWatch ∧ t.port = s.port := by
  obtain ⟨p, o, rfl⟩ := h
  exact ⟨rfl, rfl, rfl, rfl⟩

theorem presenceOnly_watches (h : s.presenceOnly t) : t.listWatch = s.listWatch ∧ t.stateWatch = s.stateWatch
    ∧ t.port.latches.fault = s.port.latches.fault := by
  obtain ⟨p, b, rfl, -⟩ := h
  exact ⟨rfl, rfl, rfl⟩

/-! Entries to the station states (R80, R96, R101, R116). -/

theorem enter_exact {x : Station} (h : (x.code, x.phaseCode) ≠ (s.station.code, s.station.phaseCode))
    (hcode : t.station = x) (hlatch : t.port.latches.stateChanged = true) : s.stateWatch.Exact t.stateWatch :=
  .of_changed hlatch (by rw [← hcode] at h; exact h)

theorem asking_codes {st : Station} (h : st ≠ .joining .asking) :
    ((Station.joining .asking).code, (Station.joining .asking).phaseCode) ≠ (st.code, st.phaseCode) := by
  cases st with
  | joining phase =>
    cases phase with
    | asking => exact absurd rfl h
    | _ => simp [Station.code, Station.phaseCode]
  | _ => simp [Station.code]

theorem reports_of_set {α : Type} {a b : Watched α} (h : b.latch = true) : a.Reports b := fun _ => h

theorem enterJoining_marks (s : State) (r : Reason) :
    Marks True True (s.station ≠ .joining .asking) s (s.enterJoining r) := by
  have hlist : s.listWatch.Exact (s.enterJoining r).listWatch := putList_exact s [] false
  have hpeers : s.peersWatch.Exact (s.enterJoining r).peersWatch := forgetPeers_exact s
  exact ⟨⟨hlist.reports, hpeers.reports, reports_of_set rfl, rfl⟩, fun _ => hlist, fun _ => hpeers,
    fun h => enter_exact (asking_codes h) rfl rfl⟩

theorem retryJoin_marks (s : State) : Marks True True (s.station ≠ .joining .asking) s s.retryJoin := by
  have hlist : s.listWatch.Exact s.retryJoin.listWatch := putList_exact s [] false
  have hpeers : s.peersWatch.Exact s.retryJoin.peersWatch := .of_eq rfl
  exact ⟨⟨hlist.reports, hpeers.reports, reports_of_set rfl, rfl⟩, fun _ => hlist, fun _ => hpeers,
    fun h => enter_exact (asking_codes h) rfl rfl⟩

/-- A change of station state that leaves list and presence table alone. -/
theorem marks_of_entered {x : Station} (hlist : t.listWatch = s.listWatch) (hpeers : t.peersWatch = s.peersWatch)
    (hfault : t.port.latches.fault = s.port.latches.fault) (hstation : t.station = x)
    (hlatch : t.port.latches.stateChanged = true) :
    Marks True True ((x.code, x.phaseCode) ≠ (s.station.code, s.station.phaseCode)) s t :=
  ⟨⟨(Watched.Exact.of_eq hlist).reports, (Watched.Exact.of_eq hpeers).reports, reports_of_set hlatch, hfault⟩,
    fun _ => .of_eq hlist, fun _ => .of_eq hpeers, fun h => enter_exact h hstation hlatch⟩

theorem enterDiscord_marks (s : State) :
    Marks True True (s.station ≠ .discord) s s.enterDiscord := by
  have h := marks_of_entered (s := s) (t := s.enterDiscord) rfl rfl rfl rfl rfl
  refine h.mono id id fun hne heq => ?_
  have hcode : (6 : Byte) = s.station.code := congrArg Prod.fst heq
  cases hst : s.station with
  | discord => exact hne hst
  | _ =>
    rw [hst] at hcode
    simp [Station.code] at hcode

/-! An accepted bulletin (R58). -/

theorem accept_eq (h : how = .filling ∨ f.body ≠ .loss s.own) :
    s.accept how f = (s.acceptedBeforeOffers how f).afterRemoval (removes s.annList.records (s.alarmOf how f).2) := by
  rcases h with rfl | h
  · rfl
  · exact State.accept_of_ne h

theorem acceptedBeforeOffers_marks (s : State) (how : Acceptance) (f : Frame) :
    Marks L P S s (s.acceptedBeforeOffers how f) := by
  have hreport (v : State) (x : RaiseResult) : (v.reportRaise how f x).listWatch = v.listWatch
      ∧ (v.reportRaise how f x).peersWatch = v.peersWatch ∧ (v.reportRaise how f x).stateWatch = v.stateWatch
      ∧ (v.reportRaise how f x).port = v.port := by
    unfold State.reportRaise
    split <;> exact ⟨rfl, rfl, rfl, rfl⟩
  have hwalks (v : State) : (v.walkEffects how f).listWatch = v.listWatch ∧ (v.walkEffects how f).peersWatch = v.peersWatch
      ∧ (v.walkEffects how f).stateWatch = v.stateWatch ∧ (v.walkEffects how f).port = v.port := by
    unfold State.walkEffects
    split
    · exact ⟨rfl, rfl, rfl, rfl⟩
    · exact ⟨rfl, rfl, rfl, rfl⟩
    · split <;> exact ⟨rfl, rfl, rfl, rfl⟩
    · exact ⟨rfl, rfl, rfl, rfl⟩
  have hoffers (v : State) : (v.walkOffers how f).listWatch = v.listWatch ∧ (v.walkOffers how f).peersWatch = v.peersWatch
      ∧ (v.walkOffers how f).stateWatch = v.stateWatch ∧ (v.walkOffers how f).port = v.port := by
    unfold State.walkOffers
    split <;> exact ⟨rfl, rfl, rfl, rfl⟩
  set a := s.countAccepted.applyAlarm (s.alarmOf how f).1 (s.alarmOf how f).2 with ha
  set b := a.reportRaise how f (s.alarmOf how f).1 with hb
  set c := b.presenceEffects how f with hc
  have ht : s.acceptedBeforeOffers how f = (c.walkEffects how f).walkOffers how f := rfl
  obtain ⟨hol, hop, hos, hoport⟩ := hoffers (c.walkEffects how f)
  obtain ⟨hwl, hwp, hws, hwport⟩ := hwalks c
  obtain ⟨hcl, hcs, hcf⟩ := presenceOnly_watches (b.presenceEffects_presenceOnly how f)
  obtain ⟨hbl, hbp, hbs, hbport⟩ := hreport a (s.alarmOf how f).1
  have halist : s.listWatch.Exact a.listWatch := putList_exact s.countAccepted _ _
  have hapeers : a.peersWatch = s.peersWatch := rfl
  have hastate : a.stateWatch = s.stateWatch := rfl
  have hafault : a.port.latches.fault = s.port.latches.fault := rfl
  refine .exact ?_ ?_ ?_ ?_ <;> rw [ht]
  · rw [hol, hwl, hcl, hbl]
    exact halist
  · rw [hop, hwp, ← hapeers, ← hbp]
    exact presenceEffects_exact b how f
  · rw [hos, hws, hcs, hbs, hastate]
    exact .refl _
  · rw [hoport, hwport, hcf, hbport]
    exact hafault

/-- Acceptance reports what it changes; where a LOSS naming the station itself empties the list it may report more. -/
theorem accept_marks (s : State) (how : Acceptance) (f : Frame) :
    Marks (f.body ≠ .loss s.own) (f.body ≠ .loss s.own) (s.station ≠ .joining .asking) s (s.accept how f) := by
  by_cases h : how = .filling ∨ f.body ≠ .loss s.own
  · have hbefore := acceptedBeforeOffers_marks (L := f.body ≠ .loss s.own) (P := f.body ≠ .loss s.own) (S := s.station ≠ .joining .asking) s how f
    obtain ⟨hl, hp, hs, hport⟩ := Still.of_pointsOnly_port
      ((s.acceptedBeforeOffers how f).afterRemoval_pointsOnly (removes s.annList.records (s.alarmOf how f).2))
    obtain ⟨⟨hlist, hpeers, hstate, hfault⟩, hL, hP, hS⟩ := hbefore
    rw [accept_eq h]
    rw [← hl] at hlist hL
    rw [← hp] at hpeers hP
    rw [← hs] at hstate hS
    exact ⟨⟨hlist, hpeers, hstate, (congrArg (fun p : Port => p.latches.fault) hport).trans hfault⟩, hL, hP, hS⟩
  · obtain ⟨hhow, hbody⟩ := not_or.1 h
    have hbody := not_not.1 hbody
    have hbefore := acceptedBeforeOffers_marks (L := True) (P := True) (S := True) s how f
    have hjoining := enterJoining_marks (s.acceptedBeforeOffers how f) .lost
    rw [accept_ownLoss hhow hbody]
    exact ⟨hbefore.toNotes.trans hjoining.toNotes, fun h => absurd hbody h, fun h => absurd hbody h,
      fun hstation => enter_exact (asking_codes hstation) rfl rfl⟩

end Marks

end Sys2Proof.Machine

namespace Sys2Proof.Machine

set_option Elab.async false

/-! Rolls taken and the outcomes of frames, as the latches see them. -/

section Rolls

variable {s v : State} {r : Roll} {f : Frame}

/-- Marking from loss records reports what it changes, and changes entries to SILENT alone (R126). -/
theorem markFromList_exact (v : State) (n : StationNo) : v.peersWatch.Exact (v.markFromList n).peersWatch
    ∧ ∀ m, (v.markFromList n).peerState m = v.peerState m ∨ (v.markFromList n).peerState m = .silent := by
  have hset : v.peersWatch.Exact (v.setPeer n .silent).peersWatch
      ∧ ∀ m, (v.setPeer n .silent).peerState m = v.peerState m ∨ (v.setPeer n .silent).peerState m = .silent := by
    refine ⟨setPeer_exact v n .silent, fun m => ?_⟩
    rw [State.setPeer_peerState]
    split
    · exact .inr rfl
    · exact .inl rfl
  have hsame : v.peersWatch.Exact v.peersWatch ∧ ∀ m, v.peerState m = v.peerState m ∨ v.peerState m = .silent :=
    ⟨.refl _, fun _ => .inl rfl⟩
  unfold State.markFromList
  split
  · split
    · exact hsame
    · exact hset
  · split
    · exact hsame
    · exact hset
  · exact hsame

theorem markFromLossRecords_exact (v : State) : v.peersWatch.Exact v.markFromLossRecords.peersWatch
    ∧ ∀ m, v.markFromLossRecords.peerState m = v.peerState m ∨ v.markFromLossRecords.peerState m = .silent := by
  have hfold (l : List StationNo) (w : State) : (l.foldl State.markFromList w).own = w.own
      ∧ w.peersWatch.Exact (l.foldl State.markFromList w).peersWatch
      ∧ ∀ m, (l.foldl State.markFromList w).peerState m = w.peerState m
        ∨ (l.foldl State.markFromList w).peerState m = .silent := by
    induction l generalizing w with
    | nil => exact ⟨rfl, .refl _, fun _ => .inl rfl⟩
    | cons n l ih =>
      obtain ⟨hfirst, hto⟩ := markFromList_exact w n
      have hown : (w.markFromList n).own = w.own := own_of_presenceOnly (w.markFromList_presenceOnly n)
      obtain ⟨hown', hrest, hto'⟩ := ih (w.markFromList n)
      rw [List.foldl_cons]
      refine ⟨hown'.trans hown, peersExact_trans hown hown' hfirst hrest fun m _ hsame => ?_, fun m => ?_⟩
      · rcases hto m with h | h
        · exact h
        · rcases hto' m with h' | h'
          · exact h'.symm.trans hsame
          · exact h.trans (h'.symm.trans hsame)
      · rcases hto' m with h' | h'
        · rw [h']
          exact hto m
        · exact .inr h'
  exact (hfold (List.finRange 32) v).2

theorem completeTransfer_watches (v : State) (b : Bool) :
    v.listWatch.Exact (v.completeTransfer b).listWatch
    ∧ (v.completeTransfer b).annList.records = v.annList.records
    ∧ v.peersWatch.Exact (v.completeTransfer b).peersWatch
    ∧ (∀ m, (v.completeTransfer b).peerState m = v.peerState m ∨ (v.completeTransfer b).peerState m = .silent)
    ∧ (v.completeTransfer b).station = .active
    ∧ (v.completeTransfer b).port.latches.fault = v.port.latches.fault := by
  unfold State.completeTransfer
  set a := (v.putList v.annList.records (b && decide (v.annList.records.length = Config.listCapacity))).enterActive with ha
  have hmarked := a.markFromLossRecords_presenceOnly
  have hpoints := a.markFromLossRecords.reconcile_pointsOnly
  obtain ⟨hpl, hpp, hps, hpport⟩ := Still.of_pointsOnly_port hpoints
  obtain ⟨hml, hms, hmf⟩ := presenceOnly_watches hmarked
  obtain ⟨hexact, hto⟩ := markFromLossRecords_exact a
  have hlist : v.listWatch.Exact a.listWatch := putList_exact v _ _
  have hpresence : a.markFromLossRecords.reconcile.presence = a.markFromLossRecords.presence :=
    State.pointsOnly_presence hpoints
  refine ⟨?_, ?_, ?_, fun m => ?_, ?_, ?_⟩
  · rw [hpl, hml]
    exact hlist
  · rw [State.pointsOnly_annList hpoints, State.presenceOnly_annList (s := a) hmarked]
    rfl
  · rw [hpp]
    exact hexact
  · simp only [State.peerState, hpresence]
    exact hto m
  · rw [State.pointsOnly_station hpoints, State.presenceOnly_station (s := a) hmarked]
    rfl
  · rw [hpport, hmf]
    rfl

/-- What taking a roll reports of list and presence table, and where it leaves the station (R110 to R113, R116). -/
theorem takeRoll_watches (v : State) (r : Roll) :
    v.listWatch.Exact (v.takeRoll r).listWatch
    ∧ v.peersWatch.Exact (v.takeRoll r).peersWatch
    ∧ (∀ m, (v.takeRoll r).peerState m = v.peerState m ∨ (v.takeRoll r).peerState m = .silent)
    ∧ ((v.takeRoll r).station = .joining .asking ∧ (v.takeRoll r).port.latches.stateChanged = true
      ∨ (v.takeRoll r).station = .joining (.filling 0)
        ∧ (v.takeRoll r).port.latches.stateChanged = v.port.latches.stateChanged
      ∨ (v.takeRoll r).station = .active ∧ (v.takeRoll r).port.latches.stateChanged = true)
    ∧ (v.takeRoll r).port.latches.fault = v.port.latches.fault := by
  unfold State.takeRoll
  split
  · obtain ⟨⟨-, -, -, hfault⟩, hlist, hpeers, -⟩ := retryJoin_marks v
    have hlatch : v.retryJoin.port.latches.stateChanged = true := rfl
    exact ⟨hlist trivial, hpeers trivial, fun _ => .inl rfl, .inl ⟨State.retryJoin_station v, hlatch⟩, hfault⟩
  · next rs _ =>
    have hput : v.listWatch.Exact ((v.putList rs v.annList.overflow).putStation (.joining (.filling 0))).listWatch :=
      putList_exact v rs _
    dsimp only
    split
    · have hrecordsPut : ((v.putList rs v.annList.overflow).putStation (.joining (.filling 0))).annList.records = rs := rfl
      have hpeersPut : ((v.putList rs v.annList.overflow).putStation (.joining (.filling 0))).peersWatch = v.peersWatch := rfl
      have hstatePut (m : StationNo) :
          ((v.putList rs v.annList.overflow).putStation (.joining (.filling 0))).peerState m = v.peerState m := rfl
      have hfaultPut : ((v.putList rs v.annList.overflow).putStation (.joining (.filling 0))).port.latches.fault
          = v.port.latches.fault := rfl
      have hvaluePut : ((v.putList rs v.annList.overflow).putStation (.joining (.filling 0))).listWatch.value
          = (rs, v.listWatch.value.2) := rfl
      generalize (v.putList rs v.annList.overflow).putStation (.joining (.filling 0)) = w at *
      obtain ⟨hlist, hrecords, hpeers, hto, hstation, hfault⟩ := completeTransfer_watches w r.overflow
      obtain ⟨-, -, -, hlatch⟩ := completeTransfer_frame w r.overflow
      rw [hpeersPut] at hpeers
      refine ⟨hput.trans hlist fun hsame => ?_, hpeers, fun m => (hto m).imp_left fun h => h.trans (hstatePut m), .inr (.inr ⟨hstation, hlatch⟩),
        hfault.trans hfaultPut⟩
      have hfst : (w.completeTransfer r.overflow).listWatch.value.1 = v.listWatch.value.1 := by rw [hsame]
      have hvalue (x : State) : x.listWatch.value.1 = x.annList.records := rfl
      rw [hvalue, hvalue, hrecords, hrecordsPut] at hfst
      rw [hvaluePut, hfst]
      rfl
    · exact ⟨hput, .refl _, fun _ => .inl rfl, .inr (.inl ⟨rfl, rfl⟩), rfl⟩

/-- A roll taken after its sender is noted: the marks of R126 do not undo the note (R124). -/
theorem takeRoll_peers (hown : v.own = s.own) (hnoted : s.peersWatch.Exact v.peersWatch) {n : StationNo}
    (hpeers : ∀ m, m ≠ s.own → v.peerState m = if m = n then notedState (s.peerState m) else s.peerState m) :
    s.peersWatch.Exact (v.takeRoll r).peersWatch := by
  obtain ⟨-, hexact, hto, -, -⟩ := takeRoll_watches v r
  have hown' : (v.takeRoll r).own = v.own := own_congr (v.takeRoll_sameOutside r).2.1
  refine peersExact_trans hown hown' hnoted hexact fun m hm hsame => ?_
  have hstate := hpeers m hm
  split at hstate
  · by_cases hfresh : (s.peerState m).fresh
    · have hactive : v.peerState m = .active := by
        rcases hfresh with h | h <;> rw [hstate, h] <;> rfl
      rcases hto m with h | h
      · exact h.symm.trans hsame
      · rcases hfresh with h' | h' <;> cases (h.symm.trans hsame).trans h'
    · exact hstate.trans (notedState_of_not_fresh hfresh)
  · exact hstate

end Rolls

end Sys2Proof.Machine

namespace Sys2Proof.Machine

set_option Elab.async false

/-! The outcomes of frames and the check, as the latches see them (R15, R123, R160, R183). -/

section Outcomes

variable {L P S : Prop} {s : State} {f : Frame}

/-! A roll taken by the joiner it is addressed to (R110 to R113). -/

theorem not_isJoin_of_body (h : ∀ r d, f.body ≠ .join r d) : f.isJoin = false := by
  unfold Frame.isJoin
  split
  · next r d hbody => exact absurd hbody (h r d)
  · rfl

theorem takeFirstRoll_marks {r : Roll} {k : Nat} (hstation : s.station = .joining (.admitted k))
    (hbody : f.body = .transferRoll r) (htarget : r.target = s.own) : Marks L P S s (s.takeFirstRoll f r) := by
  set w : State := { s with lineCount := f.count + 1 } with hw
  have honly := w.presenceEffects_presenceOnly .filling f
  obtain ⟨hwl, -, hwf⟩ := presenceOnly_watches honly
  have hnoted := presenceEffects_exact w .filling f
  have hpeers := presenceEffects_ownRoll (s := w) (how := .filling) hbody (by exact htarget)
  have hown := own_of_presenceOnly honly
  set v := (w.presenceEffects .filling f).enter (.joining (.filling 0)) with hv
  obtain ⟨hlist, -, -, hend, hfault⟩ := takeRoll_watches v r
  have hlatch : (v.takeRoll r).port.latches.stateChanged = true := by
    obtain ⟨-, -, -, hset⟩ := takeRoll_frame v r
    exact hset rfl
  have hvl : v.listWatch = s.listWatch := hwl
  rw [hvl] at hlist
  refine .exact hlist (takeRoll_peers (s := s) (v := v) hown hnoted hpeers) (.of_changed hlatch ?_) (hfault.trans hwf)
  have hcodes : (s.station.code, s.station.phaseCode) = ((3 : Byte), (2 : Byte)) := by rw [hstation]; rfl
  change ((v.takeRoll r).station.code, (v.takeRoll r).station.phaseCode) ≠ (s.station.code, s.station.phaseCode)
  rw [hcodes]
  rcases hend with ⟨h, -⟩ | ⟨h, -⟩ | ⟨h, -⟩ <;> rw [h] <;> decide

theorem takeRoll_marks {r : Roll} {k : Nat} (hstation : s.station = .joining (.filling k))
    (hbody : f.body = .transferRoll r) (htarget : r.target = s.own) :
    Marks L P S s ((s.countAccepted.presenceEffects .filling f).takeRoll r) := by
  have honly := s.countAccepted.presenceEffects_presenceOnly .filling f
  obtain ⟨hwl, hws, hwf⟩ := presenceOnly_watches honly
  have hnoted := presenceEffects_exact s.countAccepted .filling f
  have hpeers := presenceEffects_ownRoll (s := s.countAccepted) (how := .filling) hbody (by exact htarget)
  have hown := own_of_presenceOnly honly
  generalize s.countAccepted.presenceEffects .filling f = v at *
  obtain ⟨hlist, -, -, hend, hfault⟩ := takeRoll_watches v r
  have hvl : v.listWatch = s.listWatch := hwl
  have hvs : v.stateWatch = s.stateWatch := hws
  rw [hvl] at hlist
  have hcodes : (s.station.code, s.station.phaseCode) = ((3 : Byte), (3 : Byte)) := by rw [hstation]; rfl
  have hchanged (hlatch : (v.takeRoll r).port.latches.stateChanged = true)
      (hne : ((v.takeRoll r).station.code, (v.takeRoll r).station.phaseCode) ≠ ((3 : Byte), (3 : Byte))) :
      s.stateWatch.Exact (v.takeRoll r).stateWatch := .of_changed hlatch (by rw [← hcodes] at hne; exact hne)
  refine .exact hlist (takeRoll_peers (s := s) (v := v) hown hnoted hpeers) ?_ (hfault.trans hwf)
  rcases hend with ⟨hst, hlatch⟩ | ⟨hst, hlatch⟩ | ⟨hst, hlatch⟩
  · exact hchanged hlatch (by rw [hst]; decide)
  · refine .of_eq ?_
    have hlatch' : (v.takeRoll r).port.latches.stateChanged = s.port.latches.stateChanged :=
      hlatch.trans (congrArg Watched.latch hvs)
    simp only [State.stateWatch, hst, hstation, hlatch']
    rfl
  · exact hchanged hlatch (by rw [hst]; decide)

theorem acceptFilling_marks {k : Nat} (hstation : s.station = .joining (.filling k)) :
    Marks (f.body ≠ .loss s.own) (f.body ≠ .loss s.own) True s (s.acceptFilling f) := by
  have hne : s.station ≠ .joining .asking := by rw [hstation]; nofun
  have haccept := (accept_marks s .filling f).mono id id fun _ : True => hne
  unfold State.acceptFilling
  split
  · next r hbody =>
    split
    · next htarget => exact takeRoll_marks hstation hbody htarget
    · exact haccept
  · exact haccept

/-! The outcome at a receiver (R89 to R97). -/

/-- No LOSS that names the station stands to be accepted. -/
def Heard.namesOther (heard : Heard) (own : StationNo) : Prop := ∀ f, heard = .wellFormed f → f.body ≠ .loss own

theorem setPeer_marks (s : State) (n : StationNo) (x : PeerState) : Marks L P S s (s.setPeer n x) :=
  .exact (.of_eq rfl) (setPeer_exact s n x) (.of_eq rfl) rfl

theorem putStation_muted_marks {k : Nat} {b : Bool} (h : s.station = .muted k b) :
    Marks L P S s (s.putStation (.muted k true)) := by
  have hstate : (s.putStation (.muted k true)).stateWatch = s.stateWatch := by
    simp only [State.stateWatch, h]
    rfl
  exact .exact (.of_eq rfl) (.of_eq rfl) (.of_eq hstate) rfl

theorem receiverOutcome_marks (s : State) (heard : Heard) (drive : Option Slot) (x : Seen) :
    Marks (heard.namesOther s.own) (heard.namesOther s.own) True s (s.receiverOutcome heard drive x) := by
  have hrefl : Marks (heard.namesOther s.own) (heard.namesOther s.own) True s s := .refl s
  have haccept {f : Frame} (hheard : heard = .wellFormed f) (hst : s.station ≠ .joining .asking) (how : Acceptance) :
      Marks (heard.namesOther s.own) (heard.namesOther s.own) True s (s.accept how f) :=
    (accept_marks s how f).mono (fun h => h f hheard) (fun h => h f hheard) fun _ => hst
  have hresync (hst : s.station ≠ .joining .asking) :
      Marks (heard.namesOther s.own) (heard.namesOther s.own) True s (s.enterJoining .resync) :=
    (enterJoining_marks s .resync).mono (fun _ => trivial) (fun _ => trivial) fun _ => hst
  unfold State.receiverOutcome
  split
  · next hst =>
    have hne : s.station ≠ .joining .asking := by rw [hst]; nofun
    unfold State.activeOutcome
    split
    · split
      · exact haccept rfl hne _
      · exact hrefl
    · split
      · split
        · exact hrefl
        split
        · exact haccept rfl hne _
        · exact setPeer_marks s _ _
      split
      · exact hresync hne
      · exact hrefl
    · exact hrefl
  · next hst =>
    have hne : s.station ≠ .joining .asking := by rw [hst]; nofun
    split
    · unfold State.mutedOutcome
      split
      · split
        · exact haccept rfl hne _
        · exact putStation_muted_marks hst
      · exact putStation_muted_marks hst
    · exact hrefl
  · next hst =>
    unfold State.admittedOutcome
    split
    · next r hbody =>
      split
      · next htake =>
        have htarget : r.target = s.own := of_decide_eq_true (Bool.and_eq_true_iff.1 htake).1
        exact takeFirstRoll_marks hst hbody htarget
      · exact hrefl
    · exact hrefl
  · next f hst =>
    have hne : s.station ≠ .joining .asking := by rw [hst]; nofun
    unfold State.fillingOutcome
    split
    · split
      · exact (acceptFilling_marks hst).mono (fun h => h f rfl) (fun h => h f rfl) id
      split
      · exact hresync hne
      · exact hrefl
    · exact hrefl
  · exact hrefl

theorem endReceivedFrame_marks (s : State) (x : InFrame) (slots : Slots) :
    Marks (x.heard.namesOther s.own) (x.heard.namesOther s.own) True s (s.endReceivedFrame x slots) := by
  have hline : Still s (s.mapLine fun l => l.endFrame x slots) := (inert_mapLine s _).toStill
  unfold State.endReceivedFrame
  dsimp only
  split
  · next h =>
    have hfinds : s.station.findsDuplicate = true := (Bool.and_eq_true_iff.1 h).2
    have hdiscord := (enterDiscord_marks (s.mapLine fun l => l.endFrame x slots)).congr_left hline
    refine hdiscord.mono (fun _ => trivial) (fun _ => trivial) fun _ hst => ?_
    have hst' : s.station = .discord := hst
    rw [hst'] at hfinds
    cases hfinds
  · exact (receiverOutcome_marks (s.mapLine fun l => l.endFrame x slots) _ _ _).congr_left hline

/-! The end of a timer, and a frame that ends or is checked after it (R117, log entry 20). -/

theorem not_asking_of_timerOver (h : s.station.timerOver = true) : s.station ≠ .joining .asking := by
  rintro hst
  rw [hst] at h
  cases h

theorem not_discord_of_timerOver (h : s.station.timerOver = true) : s.station ≠ .discord := by
  rintro hst
  rw [hst] at h
  cases h

theorem takeTimerEnd_marks (h : s.station.timerOver = true) : Marks True True True s s.takeTimerEnd := by
  have hne := not_asking_of_timerOver h
  unfold State.takeTimerEnd
  split
  · exact (enterJoining_marks s _).mono id id fun _ => hne
  split
  · exact (retryJoin_marks s).mono id id fun _ => hne
  split
  · exact (enterJoining_marks s _).mono id id fun _ => hne
  · exact .refl s

theorem takeTimerEnd_latch (h : s.station.timerOver = true) : s.takeTimerEnd.port.latches.stateChanged = true := by
  unfold State.takeTimerEnd
  simp only [Station.timerOver, Bool.or_eq_true, or_assoc] at h
  split
  · rfl
  split
  · rfl
  split
  · rfl
  · next hl ht hm => exact absurd h (by simp [hl, ht, hm])

/-- A frame that ends as after a timer's end finds the station asking: it leaves the list and the table as they are then. -/
theorem endReceivedFrame_afterTimer_marks (h : s.station.timerOver = true) (x : InFrame) (slots : Slots) :
    Marks L P S s (s.takeTimerEnd.endReceivedFrame x slots) := by
  have hend := takeTimerEnd_marks h
  have hasking := takeTimerEnd_station h
  have hlatch := takeTimerEnd_latch h
  generalize s.takeTimerEnd = u at *
  obtain ⟨⟨hlist, hpeers, hstate, hfault⟩, hL, hP, hS⟩ := hend
  unfold State.endReceivedFrame
  dsimp only
  split
  · refine .exact (hL trivial) (hP trivial) (.of_changed rfl ?_) hfault
    have hdiscord := not_discord_of_timerOver h
    intro heq
    have hcode : (6 : Byte) = s.station.code := congrArg Prod.fst heq
    cases hst : s.station with
    | discord => exact hdiscord hst
    | _ =>
      rw [hst] at hcode
      simp [Station.code] at hcode
  · rw [receiverOutcome_passive (s := u.mapLine fun l => l.endFrame x slots) (.inr (.inl hasking))]
    exact .exact (hL trivial) (hP trivial) (hS trivial) hfault

/-! The check (R69, R70, R125). -/

theorem noteHeard_exact (s : State) (f : Frame) : s.peersWatch.Exact (s.noteHeard f).peersWatch := by
  unfold State.noteHeard
  split
  · split
    · exact setPeer_exact _ _ _
    · split
      · exact .refl _
      · exact setPeer_exact _ _ _
    all_goals exact .refl _
  · exact .refl _

theorem hear_marks (s : State) (f : Frame) : Marks L P S s (s.hear f) := by
  by_cases h : f.sender = s.own
  · rw [hear_of_own h]
    exact .refl s
  · rw [hear_of_peer h]
    set v := (s.clearSilence f.sender).mapOutbox fun o => o.withdraw (.loss f.sender) with hv
    obtain ⟨hlist, hstate, hfault⟩ := presenceOnly_watches (v.noteHeard_presenceOnly f)
    have hpeers : v.peersWatch = s.peersWatch := clearSilence_watch s f.sender
    have hexact := noteHeard_exact v f
    rw [hpeers] at hexact
    exact .exact (.of_eq hlist) hexact (.of_eq hstate) hfault

theorem hear_watches (s : State) (f : Frame) :
    (s.hear f).listWatch = s.listWatch ∧ (s.hear f).stateWatch = s.stateWatch := by
  by_cases h : f.sender = s.own
  · rw [hear_of_own h]
    exact ⟨rfl, rfl⟩
  · rw [hear_of_peer h]
    obtain ⟨hlist, hstate, -⟩ := presenceOnly_watches
      (((s.clearSilence f.sender).mapOutbox fun o => o.withdraw (.loss f.sender)).noteHeard_presenceOnly f)
    exact ⟨hlist, hstate⟩

theorem handOn_marks (s : State) (f : Frame) : Marks L P S s (s.handOn f) := by
  set v := s.mapCounters fun c => { c with goodFrames := countUp c.goodFrames } with hv
  have hcount : Still s v := ⟨rfl, rfl, rfl, rfl, rfl⟩
  have hheard : Marks L P S s (v.hear f) := (hear_marks v f).congr_left hcount
  unfold State.handOn
  dsimp only
  split
  · next n hst =>
    split
    · next hown =>
      rw [hear_of_own (s := v) hown]
      refine ((enterDiscord_marks v).congr_left hcount).mono (fun _ => trivial) (fun _ => trivial) fun _ hdiscord => ?_
      cases hst.symm.trans hdiscord
    · exact hheard
  · exact hheard

theorem checkFrame_marks (s : State) (x : InFrame) (cells : List Level) : Marks L P S s (s.checkFrame x cells) := by
  have hrecord : Still s (s.recordCheck x cells) := ⟨rfl, rfl, rfl, rfl, rfl⟩
  unfold State.checkFrame
  split
  · exact hrecord.marks
  · exact (handOn_marks _ _).congr_left hrecord

/-- A check that takes the end of a timer first: the sender heard may be noted in a table just emptied (log entry 20). -/
theorem checkFrame_afterTimer_marks (h : s.station.timerOver = true) (x : InFrame) (cells : List Level) :
    Marks L False S s (s.takeTimerEnd.checkFrame x cells) := by
  have hend := takeTimerEnd_marks h
  have hasking := takeTimerEnd_station h
  have hlatch := takeTimerEnd_latch h
  generalize s.takeTimerEnd = u at *
  have hcheck := checkFrame_marks (L := True) (P := True) (S := True) u x cells
  have hsame : (u.checkFrame x cells).listWatch = u.listWatch ∧ (u.checkFrame x cells).stateWatch = u.stateWatch := by
    unfold State.checkFrame
    split
    · exact ⟨rfl, rfl⟩
    · next f _ =>
      have hhand : (u.recordCheck x cells).handOn f
          = ((u.recordCheck x cells).mapCounters fun c => { c with goodFrames := countUp c.goodFrames }).hear f := by
        have hst : (u.recordCheck x cells).station = .joining .asking := hasking
        unfold State.handOn
        rw [hst]
      rw [hhand]
      exact hear_watches ((u.recordCheck x cells).mapCounters fun c => { c with goodFrames := countUp c.goodFrames }) f
  refine ⟨hend.toNotes.trans hcheck.toNotes, fun _ => ?_, nofun, fun _ => ?_⟩
  · rw [hsame.1]
    exact hend.listExact trivial
  · rw [hsame.2]
    exact hend.stateExact trivial

/-! The outcome at the sender (R74 to R80). -/

/-- The station is where the frame on the line comes from: asking for a JOIN, ACTIVE for every other kind (Table 6-1). -/
def State.sendsFrom (s : State) (f : Frame) : Prop :=
  (f.isJoin = true → s.station = .joining .asking) ∧ (f.isJoin = false → s.station = .active)

theorem sendsFrom_cases (h : s.sendsFrom f) : s.station = .joining .asking ∨ s.station = .active := by
  cases hjoin : f.isJoin with
  | true => exact .inl (h.1 hjoin)
  | false => exact .inr (h.2 hjoin)

theorem void_marks (s : State) (f : Frame) : Marks L P (s.sendsFrom f) s s.void := by
  unfold State.void
  dsimp only
  split
  · exact Still.marks (t := State.mapOutbox _ Outbox.land) ⟨rfl, rfl, rfl, rfl, rfl⟩
  · refine ⟨⟨(Watched.Exact.of_eq rfl).reports, (Watched.Exact.of_eq rfl).reports, reports_of_set rfl, rfl⟩, fun _ => .of_eq rfl,
      fun _ => .of_eq rfl, fun h => .of_changed rfl ?_⟩
    intro heq
    have hcode : (5 : Byte) = s.station.code := congrArg Prod.fst heq
    rcases sendsFrom_cases h with hst | hst <;> rw [hst] at hcode <;> exact absurd hcode (by decide)

theorem found_watches (v : State) : v.found.listWatch = v.listWatch ∧ v.found.peersWatch = v.peersWatch
    ∧ v.found.station = .active ∧ v.found.port.latches.stateChanged = true
    ∧ v.found.port.latches.fault = v.port.latches.fault := by
  unfold State.found
  have hpoints := (({ v with lineCount := 1 } : State).enterActive).reconcile_pointsOnly
  obtain ⟨hlist, hpeers, -, hport⟩ := Still.of_pointsOnly_port hpoints
  refine ⟨hlist, hpeers, State.pointsOnly_station hpoints, ?_, ?_⟩ <;> rw [hport] <;> rfl

theorem ownAccepted_marks (s : State) (f : Frame) (lone : Bool) :
    Marks (f.body ≠ .loss s.own) (f.body ≠ .loss s.own) (s.sendsFrom f) s (s.ownAccepted f lone) := by
  have hcredit : Still s s.creditAccepted := ⟨rfl, rfl, rfl, rfl, rfl⟩
  have hasking (hjoin : f.isJoin = true) (h : s.sendsFrom f) :
      (s.station.code, s.station.phaseCode) = ((3 : Byte), (1 : Byte)) := by
    rw [h.1 hjoin]
    rfl
  unfold State.ownAccepted
  split
  · next reason d hbody =>
    have hjoin : f.isJoin = true := by rw [Frame.isJoin, hbody]
    split
    · obtain ⟨hlist, hpeers, hstation, hlatch, hfault⟩ := found_watches s.creditAccepted
      refine (marks_of_entered (s := s) hlist hpeers hfault hstation hlatch).mono (fun _ => trivial) (fun _ => trivial)
        fun h heq => ?_
      exact absurd (heq.trans (hasking hjoin h)) (by decide)
    · refine (marks_of_entered (s := s) (t := s.creditAccepted.becomeAdmitted) (x := .joining (.admitted 0)) rfl rfl rfl rfl rfl).mono (fun _ => trivial)
        (fun _ => trivial) fun h heq => ?_
      exact absurd (heq.trans (hasking hjoin h)) (by decide)
  · next hbody =>
    have hjoin : f.isJoin = false := not_isJoin_of_body hbody
    refine ((accept_marks s.creditAccepted .sender f).congr_left hcredit).mono id id fun h => ?_
    change s.station ≠ _
    rw [h.2 hjoin]
    nofun

theorem stepped_marks (s : State) (f : Frame) : Marks L P (s.sendsFrom f) s (s.stepped f) := by
  unfold State.stepped
  split
  · refine (enterDiscord_marks s).mono (fun _ => trivial) (fun _ => trivial) fun h hst => ?_
    rcases sendsFrom_cases h with h' | h' <;> cases hst.symm.trans h'
  · next hbody =>
    have hjoin : f.isJoin = false := not_isJoin_of_body hbody
    refine (enterJoining_marks s .resync).mono (fun _ => trivial) (fun _ => trivial) fun h => ?_
    rw [h.2 hjoin]
    nofun

theorem ownOutcome_marks (s : State) (f : Frame) (x : Seen) :
    Marks (f.body ≠ .loss s.own) (f.body ≠ .loss s.own) (s.sendsFrom f) s (s.ownOutcome f x) := by
  unfold State.ownOutcome
  split
  · exact void_marks s f
  split
  · exact ownAccepted_marks s f false
  split
  · exact stepped_marks s f
  split
  · exact void_marks s f
  · exact ownAccepted_marks s f true

theorem endOwnFrame_marks (s : State) (x : InFrame) (f : Frame) (slots : Slots) :
    Marks (f.body ≠ .loss s.own) (f.body ≠ .loss s.own) (s.sendsFrom f) s (s.endOwnFrame x f slots) := by
  have hleft : Still s ((s.mapLine fun l => l.endFrame x slots).countVeto x.awaitsVeto) := ⟨rfl, rfl, rfl, rfl, rfl⟩
  exact (ownOutcome_marks ((s.mapLine fun l => l.endFrame x slots).countVeto x.awaitsVeto) f _).congr_left hleft

end Outcomes

end Sys2Proof.Machine

namespace Sys2Proof.Machine

set_option Elab.async false

/-! Every command, as the latches see it (R15, R123, R160, R183). -/

/-- No frame on the line, sent or received, is a LOSS that names the station (log entry 13). -/
def State.noOwnLoss (s : State) : Prop :=
  ∀ x f, s.line.frame = some x → (x.role = .transmitter f ∨ x.role = .collided f ∨ x.heard = .wellFormed f) →
    f.body ≠ .loss s.own

/-- The command takes no timer's end before a check (log entry 20). -/
def checksInTime (c : Instr) (s : State) : Prop := s.station.timerOver = false ∨ ∀ cells, c ≠ .frameChecked cells

/-- What a command leaves, once FAULT is judged, with the conditions under which no latch but a changed block's is set. -/
def Reported (c : Instr) (s t : State) : Prop :=
  ∃ u, Marks s.noOwnLoss (s.noOwnLoss ∧ checksInTime c s) (FlightLaw s) s u ∧ t = judgeFault s u

section Commands

variable {c : Instr} {s t : State}

theorem Still.reported (h : Still s t) : Reported c s t := ⟨t, h.marks, (judgeFault_id h.faultOn).symm⟩

theorem Reported.judged {u : State} (h : Marks True True True s u) : Reported c s (judgeFault s u) :=
  ⟨u, h.mono (fun _ => trivial) (fun _ => trivial) (fun _ => trivial), rfl⟩

theorem execFrameChecked_reported (s : State) (cells : List Level) :
    Answers (execFrameChecked cells s) (Reported (.frameChecked cells) s) := by
  have hrefl : Reported (.frameChecked cells) s s := (Still.refl s).reported
  unfold execFrameChecked
  split
  · exact .next hrefl
  split
  · exact .next hrefl
  · refine .guard (fun _ => ⟨_, ?_, rfl⟩) hrefl
    cases hover : s.station.timerOver with
    | true =>
      refine (checkFrame_afterTimer_marks (L := s.noOwnLoss) (S := FlightLaw s) hover _ _).mono id (fun hP => ?_) id
      obtain ⟨-, h | h⟩ := hP
      · cases hover.symm.trans h
      · exact h cells rfl
    | false =>
      rw [takeTimerEnd_of_not_over hover]
      exact checkFrame_marks s _ _
  · exact .next hrefl

theorem execOwnFrameOutcome_reported (s : State) (slots : Slots) :
    Answers (execOwnFrameOutcome slots s) (Reported (.ownFrameOutcome slots) s) := by
  have hrefl : Reported (.ownFrameOutcome slots) s s := (Still.refl s).reported
  have hend {x : InFrame} {f : Frame} (hx : s.line.frame = some x) (hrole : x.role = .transmitter f ∨ x.role = .collided f) :
      Reported (.ownFrameOutcome slots) s (judgeFault s (s.endOwnFrame x f slots)) := by
    have hsending := Line.sending_of_transmitter hx hrole
    have hloss (h : s.noOwnLoss) : f.body ≠ .loss s.own := h x f hx (hrole.imp id .inl)
    exact ⟨_, (endOwnFrame_marks s x f slots).mono hloss (fun h => hloss h.1) fun hflight =>
      ⟨fun hjoin => (asking_of_sending_join hflight hsending hjoin).1, active_of_sending hflight hsending⟩, rfl⟩
  unfold execOwnFrameOutcome
  split
  · exact .next hrefl
  · next x hx =>
    split
    · exact .next hrefl
    · next f hrole => exact .guard (fun _ => hend hx (.inl hrole)) hrefl
    · next f hrole => exact .guard (fun _ => hend hx (.inr hrole)) hrefl

theorem execReceivedFrameOutcome_reported (s : State) (slots : Slots) :
    Answers (execReceivedFrameOutcome slots s) (Reported (.receivedFrameOutcome slots) s) := by
  have hrefl : Reported (.receivedFrameOutcome slots) s s := (Still.refl s).reported
  unfold execReceivedFrameOutcome
  split
  · exact .next hrefl
  · next x hx =>
    split
    · exact .next hrefl
    · refine .guard (fun _ => ⟨_, ?_, rfl⟩) hrefl
      cases hover : s.station.timerOver with
      | true => exact endReceivedFrame_afterTimer_marks hover x slots
      | false =>
        have hother (h : s.noOwnLoss) : x.heard.namesOther s.own := fun f hheard => h x f hx (.inr (.inr hheard))
        rw [takeTimerEnd_of_not_over hover]
        exact (endReceivedFrame_marks s x slots).mono hother (fun h => hother h.1) fun _ => trivial
    · exact .next hrefl

theorem beginListen_reported (h : s.station = .start) : Reported c s s.beginListen := by
  refine ⟨s.beginListen, ?_, (judgeFault_of_not_active (by rw [h]; nofun) _).symm⟩
  refine (marks_of_entered (s := s) (t := s.beginListen) (x := .listen 0) rfl rfl rfl rfl rfl).mono (fun _ => trivial)
    (fun _ => trivial) fun _ => ?_
  rw [h]
  decide

theorem exec_reported (hreset : c ∉ resetCommands) (hack : ∀ mask, c ≠ .acknowledge mask) (s : State) :
    Answers (exec c s) (Reported c s) := by
  have hrefl : Reported c s s := (Still.refl s).reported
  have hover {b : Bool} (h : (s.running && b) = true) (hb : b = true → s.station.timerOver = true) :
      s.station ≠ .joining .asking := not_asking_of_timerOver (hb (Bool.and_eq_true_iff.1 h).2)
  by_cases hinert : inertCommand c = true
  · exact (exec_inert hinert s).mono fun t h => h.toStill.reported
  cases c with
  | powerOn | supplyLost | pinReset | resetEnd | restart => exact absurd (by simp [resetCommands]) hreset
  | acknowledge mask => exact absurd rfl (hack mask)
  | clearCounters =>
    refine .next (Still.reported ?_)
    have hclear : Still s ((s.mapCounters fun _ => Counters.zero).respond .ok 0x07 []) := ⟨rfl, rfl, rfl, rfl, rfl⟩
    unfold State.request
    split
    · exact (inert_endUnserved s).toStill
    split
    · exact (inert_respond s _ _ _).toStill
    · exact hclear
  | startHoldEnd =>
    refine .guard (fun h => beginListen_reported ?_) hrefl
    exact of_decide_eq_true (Bool.and_eq_true_iff.1 h).2
  | listenEnd =>
    refine .guard (fun h => .judged ((enterJoining_marks s _).mono id id fun _ => hover h fun hb => ?_)) hrefl
    simp [Station.timerOver, hb]
  | mutedTimerExpiry =>
    refine .guard (fun h => .judged ((enterJoining_marks s _).mono id id fun _ => hover h fun hb => ?_)) hrefl
    simp [Station.timerOver, hb]
  | transferTimeout =>
    refine .guard (fun h => .judged ((retryJoin_marks s).mono id id fun _ => hover h fun hb => ?_)) hrefl
    simp [Station.timerOver, hb]
  | lineHeld => exact .guard (fun _ => Still.reported ⟨rfl, rfl, rfl, rfl, rfl⟩) hrefl
  | frameChecked cells => exact execFrameChecked_reported s cells
  | ownFrameOutcome slots => exact execOwnFrameOutcome_reported s slots
  | receivedFrameOutcome slots => exact execReceivedFrameOutcome_reported s slots
  | _ => exact absurd rfl hinert

/-- Settles O16: each latch by what its block has reported, FAULT by its judgement at the end of the command. -/
theorem everyChangeSetsItsNotifyLatch : Obligations.EveryChangeSetsItsNotifyLatch := by
  intro c s t hreset hack hexec list peers station noOwnLoss
  obtain ⟨t', ht', u, hmarks, hjudged⟩ := exec_reported (c := c) hreset hack s
  obtain rfl : t = t' := by simpa [hexec] using ht'
  obtain ⟨⟨hlist, hpeers, hstate, hfault⟩, hL, hP, hS⟩ := hmarks
  have hlistWatch : t.listWatch = u.listWatch := by rw [hjudged]; rfl
  have hpeersWatch : t.peersWatch = u.peersWatch := by rw [hjudged]; rfl
  have hstateWatch : t.stateWatch = u.stateWatch := by rw [hjudged]; rfl
  rw [← hlistWatch] at hlist hL
  rw [← hpeersWatch] at hpeers hP
  rw [← hstateWatch] at hstate hS
  obtain ⟨-, hsettings, -⟩ := effects_frame (effects_of_exec hreset hexec)
  have hown : t.own = s.own := own_congr hsettings
  have hlistIff : t.listWatch.value ≠ s.listWatch.value ↔ list := by
    simp [State.listWatch, list, or_iff_not_and_not]
  have hpeersIff : t.peersWatch.value ≠ s.peersWatch.value ↔ peers := peersWatch_ne_iff hown
  have hstateIff : t.stateWatch.value ≠ s.stateWatch.value ↔ station := by
    simp [State.stateWatch, station, or_iff_not_and_not]
  refine ⟨fun h => hlist (h.imp_right hlistIff.2), fun hno h => ((hL hno).1 h).imp_right hlistIff.1,
    fun h => hpeers (h.imp_right hpeersIff.2), fun hno hintime h => ((hP ⟨hno, hintime⟩).1 h).imp_right hpeersIff.1,
    fun h => hstate (h.imp_right hstateIff.2), fun hflight h => ((hS hflight).1 h).imp_right hstateIff.1, ?_⟩
  have hon : t.faultOn = u.faultOn := by rw [hjudged]; rfl
  have hlatch : t.port.latches.fault = (u.port.latches.fault || (!s.faultOn && u.faultOn)) := by rw [hjudged]; rfl
  rw [hlatch, hfault, hon]
  simp

end Commands

end Sys2Proof.Machine
